-- ==== Sys2Proof/Word.lean ====
section
/-! DEFINITION. The word types of the block (spec 00_scope.md R11): a bus, command or data byte has 8 bits, a nibble 4; a text is a finite
sequence of bytes. There is no wider word (20_memory.md R57): times, offsets and counts are naturals. -/

namespace Sys2Proof

/-- A bus byte, a command or data byte, a text byte (00_scope.md R11). -/
abbrev Byte := BitVec 8

/-- The four bits one nibble write carries (00_scope.md R11, 10_state.md R40). -/
abbrev Nibble := BitVec 4

/-- A text operand: a finite byte sequence of any length (30_encoding.md R87). -/
abbrev Text := List Byte

end Sys2Proof
end

