-- ==== Sys2Proof/Config.lean ====
section
/-! DEFINITION. What is fixed for the machine (spec 00_scope.md R10, 10_state.md R43), and the free values: constants with no body, for
what the spec leaves at any value. -/

namespace Sys2Proof.Config

/-- `COLS`: visible columns of a row (00_scope.md R10). -/
@[simp] abbrev cols : Nat := 16

/-- `ROWS`: physical rows, also the `numLines` of an initialized block (00_scope.md R10). -/
@[simp] abbrev rows : Nat := 2

/-- `CONTENT_MAX`: bytes a RowBuffer holds (00_scope.md R10). -/
@[simp] abbrev contentMax : Nat := 64

/-- `STEP_INTERVAL`, ms (00_scope.md R10, 92_eei_decisions.md D36). -/
@[simp] abbrev stepInterval : Nat := 450

/-- `T_PW_MIN`, µs: Enable high time (00_scope.md R10). -/
@[simp] abbrev tPwMin : Nat := 1

/-- `T_NIB_MIN`, µs: settle after Enable returns low (00_scope.md R10). -/
@[simp] abbrev tNibMin : Nat := 100

/-- `T_CLEAR_MIN`, µs: settle after clear or home (00_scope.md R10). -/
@[simp] abbrev tClearMin : Nat := 2000

/-- `T_INIT1_MIN`, µs: wait after handshake nibble 1 (00_scope.md R10). -/
@[simp] abbrev tInit1Min : Nat := 4100

/-- `T_INIT2_MIN`, µs: wait after handshake nibble 2 (00_scope.md R10). -/
@[simp] abbrev tInit2Min : Nat := 4100

/-- `T_INIT3_MIN`, µs: wait after handshake nibble 3 (00_scope.md R10). -/
@[simp] abbrev tInit3Min : Nat := 150

/-- `T_POWERUP_MIN`, µs: wait before the handshake (00_scope.md R10). -/
@[simp] abbrev tPowerupMin : Nat := 40000

/-- `TIME_LIMIT`, ms: exclusive bound on every timestamp, 2^32 (00_scope.md R10). -/
@[simp] abbrev timeLimit : Nat := 4294967296

/-- `OVERLAY_DEFAULT_TIMEOUT`, ms: OPEN, and no rule uses it (00_scope.md R10, 92_eei_decisions.md D35; log entry 27). -/
opaque overlayDefaultTimeout : Nat

/-- µs the controller needs for a byte: "about 37 µs" (47_display_observer.md R216; log entry 30). -/
@[simp] abbrev lcdByteTime : Nat := 37

/-- µs the controller needs for clear and home: "1.52 ms" (47_display_observer.md R216; log entry 30). -/
@[simp] abbrev lcdClearTime : Nat := 1520

/-- The pad byte of a short row (42_scheduler.md R163), also what a cleared DDRAM cell holds (47_display_observer.md R217). -/
@[simp] abbrev blank : Byte := 0x20

/-- FREE VALUE: what `SR` holds after the n-th firmware reset (10_state.md R20 "any value"; log entry 22). -/
opaque bootSR : Nat → Byte

/-- FREE VALUE: what `PAR` holds after the n-th firmware reset (10_state.md R20 "any value"; log entry 22). -/
opaque bootPAR : Nat → Byte

/-- FREE VALUE: the level of SDA after the n-th firmware reset (40_bus_adapter.md R101 gives no idle level; log entry 22). -/
opaque bootSDA : Nat → Bool

/-- FREE VALUE: `rowOffsets[k]` after the n-th firmware reset (10_state.md R20 "unspecified"; log entry 22). -/
opaque bootRowOffset : Nat → Nat → Byte

/-- FREE VALUE: whether `numLines` is 2 (and not 1) after the n-th firmware reset (10_state.md R20 "unspecified"; log entry 22). -/
opaque bootTwoLines : Nat → Bool

end Sys2Proof.Config
end

