-- ==== Sys2Proof/Syntax.lean ====
section
/-! DEFINITION. The instructions: one constructor for each of the 36 rows of spec/opcode_table.json, at the four encoding levels of
30_encoding.md R70. The operands of a host operation are kept as the host gives them (naturals, byte lists), so that an operand
outside its kind (R87) reaches the machine and is refused there (R88, R244); the operands of the other levels are bit fields. -/

namespace Sys2Proof

/-- Where an instruction comes from: the four levels of 30_encoding.md R70, the first split into the host's records and the
primitives the block issues itself (R86). The same number names different instructions at different levels (log entry 7). -/
inductive Port where
  /-- Level 1, a record the host issues (R86, op codes below 0x18). -/
  | host
  /-- Level 1, an internal primitive issued inside an operation (R86, op codes 0x18 to 0x1C). -/
  | seq
  /-- Level 2, a controller byte: RS and 8 bits (R76, R84). -/
  | ctl
  /-- Level 3, a nibble write: RS and 4 bits (R74). -/
  | nib
  /-- Level 4, a bus byte (R71). -/
  | bus
  deriving DecidableEq, Repr

/-- Scroll direction of a row, `dir` ∈ {FWD, BWD} (10_state.md R32). -/
inductive Dir where
  | fwd
  | bwd
  deriving DecidableEq, Repr

/-- `animationMode` of a row (10_state.md R32). -/
inductive Mode where
  | none
  | bounce
  | loop
  deriving DecidableEq, Repr

/-- A physical row, r ∈ {0, 1} (10_state.md R30). -/
inductive RowIx where
  | row0
  | row1
  deriving DecidableEq, Repr

/-- BusWord: registerSelect, enableStrobe, dataNibble (10_state.md R40). -/
structure BusWord where
  rs : Bool
  e : Bool
  n : Nibble
  deriving DecidableEq, Repr

/-- The instructions, in the order of spec/opcode_table.json. -/
inductive Instr where
  -- Level 1: host operations (30_encoding.md R86).
  | opInitialize
  | clear
  | home
  | setCursor (col row : Nat)
  | displayOn
  | displayOff
  | setCursorVisible (v : Nat)
  | blinkOn
  | blinkOff
  | setScrollDirection (d : Nat)
  | setAutoscroll (v : Nat)
  | writeGlyph (b : Nat)
  | defineGlyph (slot : Nat) (bitmap : List Nat)
  | showOverlay (t0 t1 : Text) (dur : Nat)
  | print (text : Text) (timeoutMs : Nat)
  | setBackground (row : Nat) (text : Text)
  | setBackgroundRows (upper lower : Text)
  | setAnimationMode (row mode : Nat)
  | tick (now : Nat)
  -- Level 1: internal primitives (30_encoding.md R86).
  | transmit (word : BusWord)
  | nibble (rs : Bool) (n : Nibble)
  | send (rs : Bool) (v : Byte)
  | renderRow (r : RowIx)
  | stepRow (r : RowIx)
  -- Level 2: controller bytes (30_encoding.md R76, R84).
  | cmdClearDisplay
  | cmdReturnHome (x : Bool)
  | cmdEntryModeSet (i s : Bool)
  | cmdDisplayControl (d c b : Bool)
  | cmdCursorDisplayShift (s r : Bool) (x : BitVec 2)
  | cmdFunctionSet (l n f : Bool) (x : BitVec 2)
  | cmdSetCgramAddress (a : BitVec 6)
  | cmdSetDdramAddress (a : BitVec 7)
  | dataWrite (d : Byte)
  -- Level 3: the handshake nibbles (30_encoding.md R83).
  | handshakeNibble8bit
  | handshakeNibble4bit
  -- Level 4: the bus byte (30_encoding.md R71).
  | busByte (r e : Bool) (n : Nibble)
  deriving DecidableEq, Repr

end Sys2Proof
end

