-- ==== Sys2Proof/WellFormed.lean ====
section
/-! DEFINITION. Which instructions are well formed: every operand of a host operation is of its kind (spec 30_encoding.md R87). The
other levels' operands are bit fields and always of their kind. -/

namespace Sys2Proof

/-- A text operand's kind: no byte of it is 0x00 (30_encoding.md R87). -/
def Text.wf (t : Text) : Bool := t.all (· != 0x00#8)

/-- A `u8[8]` operand's kind: exactly eight numbers, each a byte (30_encoding.md R87). -/
def Bitmap.wf (m : List Nat) : Bool := m.all (fun n => decide (n < 256)) && decide (m.length = 8)

/-- Every operand is of its kind (30_encoding.md R87, R88). -/
def Instr.wf : Instr → Bool
  | .opInitialize => true
  | .clear => true
  | .home => true
  | .setCursor col row => decide (col < 256) && decide (row < 256)
  | .displayOn => true
  | .displayOff => true
  | .setCursorVisible v => decide (v < 2)
  | .blinkOn => true
  | .blinkOff => true
  | .setScrollDirection d => decide (d < 2)
  | .setAutoscroll v => decide (v < 2)
  | .writeGlyph b => decide (b < 256)
  | .defineGlyph slot bitmap => decide (slot < 256) && Bitmap.wf bitmap
  | .showOverlay t0 t1 dur => Text.wf t0 && Text.wf t1 && decide (dur < 2 ^ 32)
  | .print text timeoutMs => Text.wf text && decide (timeoutMs < 2 ^ 32)
  | .setBackground row text => decide (row < 256) && Text.wf text
  | .setBackgroundRows upper lower => Text.wf upper && Text.wf lower
  | .setAnimationMode row mode => decide (row < 256) && decide (mode < 3)
  | .tick now => decide (now < 2 ^ 32)
  | .transmit _ => true
  | .nibble _ _ => true
  | .send _ _ => true
  | .renderRow _ => true
  | .stepRow _ => true
  | .cmdClearDisplay => true
  | .cmdReturnHome _ => true
  | .cmdEntryModeSet _ _ => true
  | .cmdDisplayControl _ _ _ => true
  | .cmdCursorDisplayShift _ _ _ => true
  | .cmdFunctionSet _ _ _ _ => true
  | .cmdSetCgramAddress _ => true
  | .cmdSetDdramAddress _ => true
  | .dataWrite _ => true
  | .handshakeNibble8bit => true
  | .handshakeNibble4bit => true
  | .busByte _ _ _ => true

end Sys2Proof
end

