-- ==== Sys2Proof/Decode.lean ====
section
/-! DEFINITION. The encodings (spec 30_encoding.md) and the decoder, total on any bytes and rejecting by name, then the encoder. The bus
byte, the controller bytes and the handshake nibbles are the spec's (R71 to R84); a host record's op code is the spec's (R86), and
the layout of its operand bytes is the model's own (DESIGN CHOICE, log entry 5). -/

namespace Sys2Proof

/-! ### Bit fields and byte order -/

/-- Bit `k` of a byte, set when `b` is 1 (00_scope.md R12). -/
def bitAt (b : Bool) (k : Nat) : Byte := if b then 0x01#8 <<< k else 0x00#8

/-- The high nibble, `v[7:4]` (30_encoding.md R75). -/
def hiNibble (v : Byte) : Nibble := v.extractLsb' 4 4

/-- The low nibble, `v[3:0]` (30_encoding.md R75). -/
def loNibble (v : Byte) : Nibble := v.extractLsb' 0 4

/-- `hi ‖ lo`, a byte from its two nibbles (00_scope.md R12). -/
def joinNibbles (hi lo : Nibble) : Byte := (hi.setWidth 8 <<< 4) ||| lo.setWidth 8

/-- A bool operand as a byte, 0 or 1 (30_encoding.md R87). -/
def boolByte (b : Bool) : Byte := if b then 0x01 else 0x00

/-- `n` in `k` bytes, the least significant first. -/
def leBytes : Nat → Nat → List Byte
  | 0, _ => []
  | k + 1, n => BitVec.ofNat 8 n :: leBytes k (n / 256)

/-! ### The byte builders of level 4 and level 2 -/

/-- `pack(rs, e, n) = (rs << 7) | (e << 5) | (n << 1)` (30_encoding.md R71). -/
def pack (w : BusWord) : Byte := bitAt w.rs 7 ||| bitAt w.e 5 ||| (w.n.setWidth 8 <<< 1)

/-- `CTL(D, C, B)`, display control (30_encoding.md R77). -/
def ctlByte (d c b : Bool) : Byte := 0x08 ||| bitAt d 2 ||| bitAt c 1 ||| bitAt b 0

/-- `ENT(ID, S)`, entry mode set (30_encoding.md R78). -/
def entByte (i s : Bool) : Byte := 0x04 ||| bitAt i 1 ||| bitAt s 0

/-- `FN(DL, N, F)`, function set (30_encoding.md R79). -/
def fnByte (dl n f : Bool) : Byte := 0x20 ||| bitAt dl 4 ||| bitAt n 3 ||| bitAt f 2

/-- `DDA(a) = 0x80 | (a mod 256)`, set DDRAM address (30_encoding.md R80). -/
def ddaByte (a : Nat) : Byte := 0x80 ||| BitVec.ofNat 8 a

/-- `CGA(s) = 0x40 | (s << 3)`, set CGRAM address of slot `s` (30_encoding.md R81). -/
def cgaByte (s : Nat) : Byte := 0x40 ||| (BitVec.ofNat 8 s <<< 3)

/-- Clear display (30_encoding.md R82). -/
def clearByte : Byte := 0x01

/-- Return home (30_encoding.md R82). -/
def homeByte : Byte := 0x02

/-! ### Why a word is rejected -/

/-- What the decoder answers where it refuses, by name. -/
inductive DecodeError where
  /-- No byte at all. -/
  | empty
  /-- A host record whose op code is assigned to nothing (30_encoding.md R86, R88). -/
  | unassignedOp (op : Nat)
  /-- A host record whose op code is an internal primitive's (30_encoding.md R86, R88). -/
  | internalOp (op : Nat)
  /-- The bytes end before the operands of the op code do, or a byte that tells how a text or a bitmap goes on is none of those that do (log
  entry 6). -/
  | truncated (op : Nat)
  /-- An internal primitive's operand byte outside its kind (30_encoding.md R87). -/
  | operandKind (op : Nat)
  /-- A bus byte with bit 6 or bit 0 set (30_encoding.md R73, R93). -/
  | notBusByte (b : Byte)
  /-- Not a controller byte of 9 bits, or not a nibble write of 5. -/
  | badFrame
  /-- The command byte 0x00: no row of the table, "no operation" (47_display_observer.md R217). -/
  | noCommand
  /-- A nibble write that is neither handshake nibble: no row of the table, a plain nibble write (30_encoding.md R74). -/
  | plainNibble (rs : Bool) (n : Nibble)
  deriving DecidableEq, Repr

/-! ### Taking operands off a record -/

/-- A natural of `k` bytes, the least significant first, and the bytes after it. -/
def takeNat : Nat → List Byte → Option (Nat × List Byte)
  | 0, bs => some (0, bs)
  | _ + 1, [] => none
  | k + 1, b :: bs =>
    match takeNat k bs with
    | some (n, rest) => some (b.toNat + 256 * n, rest)
    | none => none

/-- A text: each byte after a 0x01, and a 0x00 at the end. Any other byte where one of these two stands makes no text, and the record is then
taken as one whose operands end too early (DESIGN CHOICE, log entry 6). -/
def takeText : List Byte → Option (Text × List Byte)
  | [] => none
  | [m] => if m = 0x00 then some ([], []) else none
  | m :: b :: bs =>
    if m = 0x01 then
      match takeText bs with
      | some (t, rest) => some (b :: t, rest)
      | none => none
    else if m = 0x00 then some ([], b :: bs)
    else none

/-- `k` numbers of a bitmap, each in two bytes, so that one outside the kind can be given and refused. -/
def takeNats : Nat → List Byte → Option (List Nat × List Byte)
  | k + 1, a :: b :: bs =>
    match takeNats k bs with
    | some (l, rest) => some ((a.toNat + 256 * b.toNat) :: l, rest)
    | none => none
  | 0, bs => some ([], bs)
  | _ + 1, _ => none

/-- Numbers of a bitmap, each in two bytes after a 0x01, and a 0x00 at the end; any other byte in their place as in `takeText` (DESIGN CHOICE,
log entry 6). -/
def takeNatList : List Byte → Option (List Nat × List Byte)
  | [] => none
  | m :: a :: b :: bs =>
    if m = 0x01 then
      match takeNatList bs with
      | some (l, rest) => some ((a.toNat + 256 * b.toNat) :: l, rest)
      | none => none
    else if m = 0x00 then some ([], a :: b :: bs)
    else none
  | m :: bs => if m = 0x00 then some ([], bs) else none

/-- A bitmap: 0x00 and then eight numbers, or 0x01 and then a list of any other length; any other first byte as in `takeText` (DESIGN CHOICE,
log entry 6). -/
def takeBitmap : List Byte → Option (List Nat × List Byte)
  | [] => none
  | m :: bs => if m = 0x01 then takeNatList bs else if m = 0x00 then takeNats 8 bs else none

/-- A small operand (u8, bool, dir, mode): two bytes, so that a value outside the kind can be given and refused. -/
def takeSmall (bs : List Byte) : Option (Nat × List Byte) := takeNat 2 bs

/-- A u32 operand: eight bytes, so that a value outside the kind can be given and refused. -/
def takeTime (bs : List Byte) : Option (Nat × List Byte) := takeNat 8 bs

/-- What a decoder answers: the instruction and the bytes after it, or why there is none. -/
abbrev Decoded := Except DecodeError (Instr × List Byte)

/-- One operand, then the instruction. -/
def with1 {α : Type} (op : Nat) (p : List Byte → Option (α × List Byte)) (mk : α → Instr) (bs : List Byte) : Decoded :=
  match p bs with
  | some (a, rest) => .ok (mk a, rest)
  | none => .error (.truncated op)

/-- Two operands, then the instruction. -/
def with2 {α β : Type} (op : Nat) (p : List Byte → Option (α × List Byte)) (q : List Byte → Option (β × List Byte))
    (mk : α → β → Instr) (bs : List Byte) : Decoded :=
  match p bs with
  | some (a, rest) => with1 op q (mk a) rest
  | none => .error (.truncated op)

/-- Three operands, then the instruction. -/
def with3 {α β γ : Type} (op : Nat) (p : List Byte → Option (α × List Byte)) (q : List Byte → Option (β × List Byte))
    (r : List Byte → Option (γ × List Byte)) (mk : α → β → γ → Instr) (bs : List Byte) : Decoded :=
  match p bs with
  | some (a, rest) => with2 op q r (mk a) rest
  | none => .error (.truncated op)

/-! ### The decoders of the levels -/

/-- A host record: the op code of 30_encoding.md R86 in the first byte, then the operands in the order of the rule. The code is of 5 bits and R86
gives it no byte: a byte of 0x20 or above is no code of 5 bits and is taken as unassigned, and its upper bits are not dropped (DESIGN CHOICE,
log entry 38). -/
def decodeHost : List Byte → Decoded
  | [] => .error .empty
  | op :: bs =>
    match op.toNat with
    | 0x00 => .ok (.opInitialize, bs)
    | 0x01 => .ok (.clear, bs)
    | 0x02 => .ok (.home, bs)
    | 0x03 => with2 0x03 takeSmall takeSmall .setCursor bs
    | 0x04 => .ok (.displayOn, bs)
    | 0x05 => .ok (.displayOff, bs)
    | 0x06 => with1 0x06 takeSmall .setCursorVisible bs
    | 0x07 => .ok (.blinkOn, bs)
    | 0x08 => .ok (.blinkOff, bs)
    | 0x09 => with1 0x09 takeSmall .setScrollDirection bs
    | 0x0A => with1 0x0A takeSmall .setAutoscroll bs
    | 0x0B => with1 0x0B takeSmall .writeGlyph bs
    | 0x0C => with2 0x0C takeSmall takeBitmap .defineGlyph bs
    | 0x10 => with3 0x10 takeText takeText takeTime .showOverlay bs
    | 0x11 => with2 0x11 takeText takeTime .print bs
    | 0x12 => with2 0x12 takeSmall takeText .setBackground bs
    | 0x13 => with2 0x13 takeText takeText .setBackgroundRows bs
    | 0x14 => with2 0x14 takeSmall takeSmall .setAnimationMode bs
    | 0x15 => with1 0x15 takeTime .tick bs
    | 0x18 => .error (.internalOp 0x18)
    | 0x19 => .error (.internalOp 0x19)
    | 0x1A => .error (.internalOp 0x1A)
    | 0x1B => .error (.internalOp 0x1B)
    | 0x1C => .error (.internalOp 0x1C)
    | n => .error (.unassignedOp n)

/-- A bit operand of an internal primitive: one byte, 0 or 1. -/
def asBit (b : Byte) : Option Bool := if b = 0x00 then some false else if b = 0x01 then some true else none

/-- A u4 operand of an internal primitive: one byte below 16. -/
def asNibble (b : Byte) : Option Nibble := if b.toNat < 16 then some (loNibble b) else none

/-- A row operand of an internal primitive: one byte, 0 or 1. -/
def asRow (b : Byte) : Option RowIx := if b = 0x00 then some .row0 else if b = 0x01 then some .row1 else none

/-- An internal primitive as the block's own sequencer issues it: its op code (30_encoding.md R86) and one byte for each operand. -/
def decodeSeq : List Byte → Decoded
  | [] => .error .empty
  | op :: bs =>
    match op.toNat, bs with
    | 0x18, rs :: e :: n :: rest =>
      match asBit rs, asBit e, asNibble n with
      | some rs, some e, some n => .ok (.transmit ⟨rs, e, n⟩, rest)
      | _, _, _ => .error (.operandKind 0x18)
    | 0x19, rs :: n :: rest =>
      match asBit rs, asNibble n with
      | some rs, some n => .ok (.nibble rs n, rest)
      | _, _ => .error (.operandKind 0x19)
    | 0x1A, rs :: v :: rest =>
      match asBit rs with
      | some rs => .ok (.send rs v, rest)
      | none => .error (.operandKind 0x1A)
    | 0x1B, r :: rest =>
      match asRow r with
      | some r => .ok (.renderRow r, rest)
      | none => .error (.operandKind 0x1B)
    | 0x1C, r :: rest =>
      match asRow r with
      | some r => .ok (.stepRow r, rest)
      | none => .error (.operandKind 0x1C)
    | n, _ => if 0x18 ≤ n ∧ n ≤ 0x1C then .error (.truncated n) else .error (.unassignedOp n)

/-- A controller byte `(rs, v)` (30_encoding.md R76, R84): a command is read by its highest set bit. -/
def decodeController (rs : Bool) (v : Byte) : Except DecodeError Instr :=
  if rs then .ok (.dataWrite v)
  else if v.getLsbD 7 then .ok (.cmdSetDdramAddress (v.setWidth 7))
  else if v.getLsbD 6 then .ok (.cmdSetCgramAddress (v.setWidth 6))
  else if v.getLsbD 5 then .ok (.cmdFunctionSet (v.getLsbD 4) (v.getLsbD 3) (v.getLsbD 2) (v.setWidth 2))
  else if v.getLsbD 4 then .ok (.cmdCursorDisplayShift (v.getLsbD 3) (v.getLsbD 2) (v.setWidth 2))
  else if v.getLsbD 3 then .ok (.cmdDisplayControl (v.getLsbD 2) (v.getLsbD 1) (v.getLsbD 0))
  else if v.getLsbD 2 then .ok (.cmdEntryModeSet (v.getLsbD 1) (v.getLsbD 0))
  else if v.getLsbD 1 then .ok (.cmdReturnHome (v.getLsbD 0))
  else if v.getLsbD 0 then .ok .cmdClearDisplay
  else .error .noCommand

/-- A controller byte in two bytes, 9 bits: `v` in bits 7..0 and RS at bit 8 (spec/opcode_table.json). -/
def decodeCtl : List Byte → Decoded
  | v :: rs :: rest =>
    match asBit rs with
    | some rs =>
      match decodeController rs v with
      | .ok i => .ok (i, rest)
      | .error e => .error e
    | none => .error .badFrame
  | _ => .error .badFrame

/-- A nibble write in one byte, 5 bits: RS at bit 4 and the nibble in bits 3..0 (spec/opcode_table.json, 30_encoding.md R83). -/
def decodeNib : List Byte → Decoded
  | [] => .error .empty
  | b :: rest =>
    if b = 0x03 then .ok (.handshakeNibble8bit, rest)
    else if b = 0x02 then .ok (.handshakeNibble4bit, rest)
    else if b.toNat < 32 then .error (.plainNibble (b.getLsbD 4) (loNibble b))
    else .error .badFrame

/-- A bus byte: RS at bit 7, E at bit 5, the nibble in bits 4..1, bits 6 and 0 clear (30_encoding.md R71, R73). -/
def decodeBus : List Byte → Decoded
  | [] => .error .empty
  | b :: rest =>
    if b.getLsbD 6 || b.getLsbD 0 then .error (.notBusByte b)
    else .ok (.busByte (b.getLsbD 7) (b.getLsbD 5) (b.extractLsb' 1 4), rest)

/-- The decoder: the instruction the bytes at a port stand for and the bytes after it, or why there is none. -/
def decode : Port → List Byte → Decoded
  | .host, bs => decodeHost bs
  | .seq, bs => decodeSeq bs
  | .ctl, bs => decodeCtl bs
  | .nib, bs => decodeNib bs
  | .bus, bs => decodeBus bs

/-! ### The encoder -/

/-- A text's bytes in a record (see `takeText`). -/
def textBytes : Text → List Byte
  | [] => [0x00]
  | b :: t => 0x01 :: b :: textBytes t

/-- A bitmap's bytes in a record (see `takeBitmap`). -/
def bitmapBytes (m : List Nat) : List Byte :=
  if m.length = 8 then 0x00 :: m.flatMap (leBytes 2) else 0x01 :: (m.flatMap (fun n => 0x01 :: leBytes 2 n) ++ [0x00])

/-- A row operand as a byte. -/
def rowByte : RowIx → Byte
  | .row0 => 0x00
  | .row1 => 0x01

/-- The port an instruction belongs to (30_encoding.md R70, R86). -/
def Instr.port : Instr → Port
  | .opInitialize => .host
  | .clear => .host
  | .home => .host
  | .setCursor _ _ => .host
  | .displayOn => .host
  | .displayOff => .host
  | .setCursorVisible _ => .host
  | .blinkOn => .host
  | .blinkOff => .host
  | .setScrollDirection _ => .host
  | .setAutoscroll _ => .host
  | .writeGlyph _ => .host
  | .defineGlyph _ _ => .host
  | .showOverlay _ _ _ => .host
  | .print _ _ => .host
  | .setBackground _ _ => .host
  | .setBackgroundRows _ _ => .host
  | .setAnimationMode _ _ => .host
  | .tick _ => .host
  | .transmit _ => .seq
  | .nibble _ _ => .seq
  | .send _ _ => .seq
  | .renderRow _ => .seq
  | .stepRow _ => .seq
  | .cmdClearDisplay => .ctl
  | .cmdReturnHome _ => .ctl
  | .cmdEntryModeSet _ _ => .ctl
  | .cmdDisplayControl _ _ _ => .ctl
  | .cmdCursorDisplayShift _ _ _ => .ctl
  | .cmdFunctionSet _ _ _ _ => .ctl
  | .cmdSetCgramAddress _ => .ctl
  | .cmdSetDdramAddress _ => .ctl
  | .dataWrite _ => .ctl
  | .handshakeNibble8bit => .nib
  | .handshakeNibble4bit => .nib
  | .busByte _ _ _ => .bus

/-- The bytes of an instruction at its port, from the tables of 30_encoding.md (R71, R76, R83, R86). -/
def encode : Instr → List Byte
  | .opInitialize => [0x00]
  | .clear => [0x01]
  | .home => [0x02]
  | .setCursor col row => 0x03 :: (leBytes 2 col ++ leBytes 2 row)
  | .displayOn => [0x04]
  | .displayOff => [0x05]
  | .setCursorVisible v => 0x06 :: leBytes 2 v
  | .blinkOn => [0x07]
  | .blinkOff => [0x08]
  | .setScrollDirection d => 0x09 :: leBytes 2 d
  | .setAutoscroll v => 0x0A :: leBytes 2 v
  | .writeGlyph b => 0x0B :: leBytes 2 b
  | .defineGlyph slot bitmap => 0x0C :: (leBytes 2 slot ++ bitmapBytes bitmap)
  | .showOverlay t0 t1 dur => 0x10 :: (textBytes t0 ++ (textBytes t1 ++ leBytes 8 dur))
  | .print text timeoutMs => 0x11 :: (textBytes text ++ leBytes 8 timeoutMs)
  | .setBackground row text => 0x12 :: (leBytes 2 row ++ textBytes text)
  | .setBackgroundRows upper lower => 0x13 :: (textBytes upper ++ textBytes lower)
  | .setAnimationMode row mode => 0x14 :: (leBytes 2 row ++ leBytes 2 mode)
  | .tick now => 0x15 :: leBytes 8 now
  | .transmit w => [0x18, boolByte w.rs, boolByte w.e, w.n.setWidth 8]
  | .nibble rs n => [0x19, boolByte rs, n.setWidth 8]
  | .send rs v => [0x1A, boolByte rs, v]
  | .renderRow r => [0x1B, rowByte r]
  | .stepRow r => [0x1C, rowByte r]
  | .cmdClearDisplay => [clearByte, 0x00]
  | .cmdReturnHome x => [homeByte ||| bitAt x 0, 0x00]
  | .cmdEntryModeSet i s => [entByte i s, 0x00]
  | .cmdDisplayControl d c b => [ctlByte d c b, 0x00]
  | .cmdCursorDisplayShift s r x => [0x10 ||| bitAt s 3 ||| bitAt r 2 ||| x.setWidth 8, 0x00]
  | .cmdFunctionSet l n f x => [fnByte l n f ||| x.setWidth 8, 0x00]
  | .cmdSetCgramAddress a => [0x40 ||| a.setWidth 8, 0x00]
  | .cmdSetDdramAddress a => [0x80 ||| a.setWidth 8, 0x00]
  | .dataWrite d => [d, 0x01]
  | .handshakeNibble8bit => [0x03]
  | .handshakeNibble4bit => [0x02]
  | .busByte r e n => [pack ⟨r, e, n⟩]

/-- The operands fit the fields the encoder gives them: wider than the kinds of 30_encoding.md R87, so that an operand outside its kind can be
given and refused (log entry 5). -/
def Instr.fits : Instr → Bool
  | .opInitialize => true
  | .clear => true
  | .home => true
  | .setCursor col row => decide (col < 65536) && decide (row < 65536)
  | .displayOn => true
  | .displayOff => true
  | .setCursorVisible v => decide (v < 65536)
  | .blinkOn => true
  | .blinkOff => true
  | .setScrollDirection d => decide (d < 65536)
  | .setAutoscroll v => decide (v < 65536)
  | .writeGlyph b => decide (b < 65536)
  | .defineGlyph slot bitmap => decide (slot < 65536) && bitmap.all (fun n => decide (n < 65536))
  | .showOverlay _ _ dur => decide (dur < 2 ^ 64)
  | .print _ timeoutMs => decide (timeoutMs < 2 ^ 64)
  | .setBackground row _ => decide (row < 65536)
  | .setBackgroundRows _ _ => true
  | .setAnimationMode row mode => decide (row < 65536) && decide (mode < 65536)
  | .tick now => decide (now < 2 ^ 64)
  | .transmit _ => true
  | .nibble _ _ => true
  | .send _ _ => true
  | .renderRow _ => true
  | .stepRow _ => true
  | .cmdClearDisplay => true
  | .cmdReturnHome _ => true
  | .cmdEntryModeSet _ _ => true
  | .cmdDisplayControl _ _ _ => true
  | .cmdCursorDisplayShift _ _ _ => true
  | .cmdFunctionSet _ _ _ _ => true
  | .cmdSetCgramAddress _ => true
  | .cmdSetDdramAddress _ => true
  | .dataWrite _ => true
  | .handshakeNibble8bit => true
  | .handshakeNibble4bit => true
  | .busByte _ _ _ => true

/-! ### The words of spec/opcode_table.json -/

/-- The `match` and `mask` of an instruction's row in spec/opcode_table.json. -/
def Instr.tableRow : Instr → Nat × Nat
  | .opInitialize => (0x00, 0x1F)
  | .clear => (0x01, 0x1F)
  | .home => (0x02, 0x1F)
  | .setCursor _ _ => (0x03, 0x1F)
  | .displayOn => (0x04, 0x1F)
  | .displayOff => (0x05, 0x1F)
  | .setCursorVisible _ => (0x06, 0x1F)
  | .blinkOn => (0x07, 0x1F)
  | .blinkOff => (0x08, 0x1F)
  | .setScrollDirection _ => (0x09, 0x1F)
  | .setAutoscroll _ => (0x0A, 0x1F)
  | .writeGlyph _ => (0x0B, 0x1F)
  | .defineGlyph _ _ => (0x0C, 0x1F)
  | .showOverlay _ _ _ => (0x10, 0x1F)
  | .print _ _ => (0x11, 0x1F)
  | .setBackground _ _ => (0x12, 0x1F)
  | .setBackgroundRows _ _ => (0x13, 0x1F)
  | .setAnimationMode _ _ => (0x14, 0x1F)
  | .tick _ => (0x15, 0x1F)
  | .transmit _ => (0x18, 0x1F)
  | .nibble _ _ => (0x19, 0x1F)
  | .send _ _ => (0x1A, 0x1F)
  | .renderRow _ => (0x1B, 0x1F)
  | .stepRow _ => (0x1C, 0x1F)
  | .cmdClearDisplay => (0x001, 0x1FF)
  | .cmdReturnHome _ => (0x002, 0x1FE)
  | .cmdEntryModeSet _ _ => (0x004, 0x1FC)
  | .cmdDisplayControl _ _ _ => (0x008, 0x1F8)
  | .cmdCursorDisplayShift _ _ _ => (0x010, 0x1F0)
  | .cmdFunctionSet _ _ _ _ => (0x020, 0x1E0)
  | .cmdSetCgramAddress _ => (0x040, 0x1C0)
  | .cmdSetDdramAddress _ => (0x080, 0x180)
  | .dataWrite _ => (0x100, 0x100)
  | .handshakeNibble8bit => (0x03, 0x1F)
  | .handshakeNibble4bit => (0x02, 0x1F)
  | .busByte _ _ _ => (0x00, 0x41)

/-- The instruction's first word as the table numbers it: two bytes for a controller byte (RS at bit 8), one for every other row. -/
def Instr.tableWord (i : Instr) : Nat :=
  match i.port, encode i with
  | .ctl, v :: rs :: _ => v.toNat + 256 * rs.toNat
  | _, b :: _ => b.toNat
  | _, [] => 0

/-- The bytes of a table word: the table's bytes, the first at the lowest address, and operand bytes of zeros. -/
def tableBytes (nbits w : Nat) : List Byte := leBytes ((nbits + 7) / 8) w ++ List.replicate 40 0x00#8

/-- One port's reading of a table word: the instruction, the port and exactly the bytes it takes. -/
def readAt (p : Port) (bs : List Byte) : Option (Instr × Port × List Byte) :=
  match decode p bs with
  | .ok (i, rest) => some (i, p, bs.take (bs.length - rest.length))
  | .error _ => none

/-- The reading of a table word. A word of nine bits or more is a controller byte; a word of one byte is read at the first level that
has it: host record, internal primitive, bus byte, handshake nibble (its low five bits). The levels share one number space, and the
word does not say its level (DESIGN CHOICE, log entry 7). -/
def readTableWord (nbits w : Nat) : Option (Instr × Port × List Byte) :=
  if 8 < nbits then readAt .ctl (tableBytes nbits w)
  else
    match readAt .host (tableBytes nbits w) with
    | some r => some r
    | none =>
      match readAt .seq (tableBytes nbits w) with
      | some r => some r
      | none =>
        match readAt .bus (tableBytes nbits w) with
        | some r => some r
        | none => readAt .nib (tableBytes nbits (w % 32))

/-- The instruction the decoder reads from an instruction whose bits are `w`, numbered as spec/opcode_table.json numbers them. -/
def decodeTableWord (nbits w : Nat) : Option Instr := (readTableWord nbits w).map (·.1)

end Sys2Proof
end

