-- ==== Sys2Proof/Machine/State.lean ====
section
/-! DEFINITION. The state (spec 10_state.md R20, R21, and 47_display_observer.md R211 for the controller behind the bus), the inputs that
wait for the machine (10_state.md R36, R37; 60_exceptions.md R263), the ways a step can stop, and the state after reset
(70_reset_and_hazards.md R270). Plain data throughout. -/

namespace Sys2Proof.Machine

/-! ### The bus side -/

/-- A bus event (10_state.md R38). -/
inductive Event where
  /-- `Xmit(b, g)`: bus byte `b` under the gate value `g`. -/
  | xmit (b : Byte) (g : Bool)
  /-- `Wait(t)`: at least `t` µs before the next event. -/
  | wait (t : Nat)
  deriving DecidableEq, Repr

/-- The three output lines: serial data, serial clock, latch (40_bus_adapter.md R101). -/
structure Lines where
  sda : Bool
  sck : Bool
  lat : Bool
  deriving DecidableEq, Repr

/-- Whether the controller's nibble phase is known (47_display_observer.md R211). -/
inductive Sync where
  | unknown
  | sync4
  deriving DecidableEq, Repr

/-- Which nibble of a byte the controller takes next (47_display_observer.md R211). -/
inductive Phase where
  | hi
  | lo
  deriving DecidableEq, Repr

/-- Which of its memories the controller's address counter is in (47_display_observer.md R211). -/
inductive Target where
  | ddram
  | cgram
  deriving DecidableEq, Repr

/-- The controller's state, field by field as 47_display_observer.md R211 lists it. The memories are canonical lists of cells
(`Memory.wf`): a DDRAM cell not listed reads 0x20, a CGRAM row not listed reads 0 (log entry 18). -/
structure Lcd where
  sync : Sync
  phase : Phase
  hi : Nibble
  ac : BitVec 7
  tgt : Target
  ddram : List Host.Cell
  cgram : List (Nat × BitVec 5)
  d : Bool
  c : Bool
  b : Bool
  id : Bool
  s : Bool
  dl : Bool
  n : Bool
  f : Bool
  shift : Nat
  e : Bool
  undef : Bool
  deriving DecidableEq, Repr

/-- What the controller's timing rules need and R211 does not list: the model's own (log entries 13, 14). -/
structure LcdTime where
  /-- µs of execution left at the least waits (47_display_observer.md R216). -/
  busy : Nat
  /-- µs waited since the last strobe, at the least waits (47_display_observer.md R214, 70_reset_and_hazards.md R277). -/
  since : Nat
  /-- Handshake nibbles 0x3 seen in a row with their gaps kept, at most 3 (47_display_observer.md R214). -/
  hs : Nat
  deriving DecidableEq, Repr

/-- The controller with its timing. -/
structure Panel where
  lcd : Lcd
  time : LcdTime
  deriving DecidableEq, Repr

/-- The bus side: the shift register and its lines (10_state.md R39), the trace (R38), and the controller behind them. -/
structure Bus where
  sr : Byte
  par : Byte
  lines : Lines
  trace : List Event
  /-- All that the controller's side has been fed since the block's reset, in order: the block's events, and those of a larger system
  (47_display_observer.md R231). The model's own (log entry 33). -/
  fed : List Event
  /-- A larger system has fed bytes that are no frame of their level since the block's reset, so that what was fed is not block-conformant
  (47_display_observer.md R231). The model's own (log entry 29). -/
  misfed : Bool
  panel : Panel
  deriving DecidableEq, Repr

/-! ### The block -/

/-- `controlFlags` (10_state.md R23). -/
structure Ctl where
  d : Bool
  c : Bool
  b : Bool
  deriving DecidableEq, Repr

/-- `entryModeFlags` (10_state.md R24). -/
structure Ent where
  id : Bool
  s : Bool
  deriving DecidableEq, Repr

/-- `functionFlags` (10_state.md R25). -/
structure Fn where
  dl : Bool
  n : Bool
  f : Bool
  deriving DecidableEq, Repr

/-- `rowOffsets[0..3]` (10_state.md R26). -/
structure RowOffsets where
  o0 : Byte
  o1 : Byte
  o2 : Byte
  o3 : Byte
  deriving DecidableEq, Repr

/-- A RowBuffer (10_state.md R30). -/
structure RowBuffer where
  content : List Byte
  offset : Nat
  dir : Dir
  mode : Mode
  deadline : Nat
  deriving DecidableEq, Repr

/-- OverlayState (10_state.md R34). -/
structure Overlay where
  active : Bool
  expiry : Nat
  deriving DecidableEq, Repr

/-- The sequencer position (10_state.md R21): IDLE, or inside operation `op` with its first `k` events emitted and the gate value `g` it
sampled (R37). -/
inductive Seq where
  | idle
  | inOp (op k : Nat) (g : Bool)
  deriving DecidableEq, Repr

/-- The refusal codes (60_exceptions.md R249). -/
inductive RefCode where
  /-- Code 1, `RF_UNINIT`: an operation before INITIALIZE. -/
  | uninit
  /-- Code 2, `RF_REINIT`: a second INITIALIZE. -/
  | reinit
  /-- Code 3, `RF_TIME_BACKWARD`: TICK with `now < clk.last`. -/
  | timeBackward
  /-- Code 4, `RF_TIME_RANGE`: a time or deadline at or above `TIME_LIMIT`. -/
  | timeRange
  /-- Code 5, `RF_BAD_OP`: an unassigned or internal op code. -/
  | badOp
  /-- Code 6, `RF_ARG_RANGE`: an operand outside its kind. -/
  | argRange
  /-- Code 7, `RF_BITMAP_LEN`: a bitmap not of length 8. -/
  | bitmapLen
  /-- Code 8, `RF_NUL_TEXT`: 0x00 in a text. -/
  | nulText
  /-- Code 9, `RF_REENTRANT`: a call during an operation. -/
  | reentrant
  deriving DecidableEq, Repr

/-- The refused record (60_exceptions.md R242, R249): the code, and the op code of the call (none when the call has none). -/
structure RefRecord where
  code : RefCode
  op : Option Nat
  deriving DecidableEq, Repr

/-! ### Inputs -/

/-- What the host supplies with a call: the level of `OE` (10_state.md R37) and the reading of its clock, in ms (R36). -/
structure Env where
  oe : Bool
  clock : BitVec 32
  deriving DecidableEq, Repr

/-- What can come from outside, one at a time (60_exceptions.md R263; log entry 2). -/
inductive Input where
  /-- One instruction's bytes at a port, with the host's `OE` and clock. -/
  | record (port : Port) (env : Env) (bytes : List Byte)
  /-- A larger system waits `t` µs before its next feed of the controller (47_display_observer.md R231). -/
  | pause (t : Nat)
  /-- A firmware reset: the block loses its state, the controller keeps its own (70_reset_and_hazards.md R270, R272). -/
  | firmwareReset
  deriving DecidableEq, Repr

/-! ### The state -/

/-- The machine's state. -/
structure State where
  /-- `init` (10_state.md R28). -/
  init : Bool
  /-- `ctl.*` (10_state.md R23). -/
  ctl : Ctl
  /-- `ent.*` (10_state.md R24). -/
  ent : Ent
  /-- `fn.*` (10_state.md R25). -/
  fn : Fn
  /-- `rowOffsets` (10_state.md R26). -/
  rowOffsets : RowOffsets
  /-- `numLines` (10_state.md R27). -/
  numLines : Nat
  /-- `row[0]` (10_state.md R30). -/
  row0 : RowBuffer
  /-- `row[1]` (10_state.md R30). -/
  row1 : RowBuffer
  /-- `ov.*` (10_state.md R34). -/
  ov : Overlay
  /-- `clk.last` (10_state.md R36). -/
  clkLast : Nat
  /-- `SR`, `PAR`, the lines, `trace`, what the controller was fed, and the controller (10_state.md R38, R39). -/
  bus : Bus
  /-- `refused` (60_exceptions.md R240). -/
  refused : Bool
  /-- The refused record (60_exceptions.md R242, R249). -/
  refusal : Option RefRecord
  /-- `seq` (10_state.md R21). -/
  seq : Seq
  /-- The inputs of the current call: not state of the block (10_state.md R36, R37; log entry 2). -/
  env : Env
  /-- The inputs not taken yet: not state of the block (log entry 2). -/
  inbox : List Input
  /-- How many firmware resets there were: the model's own, the counter its free values are drawn by (log entry 22). -/
  boots : Nat
  deriving DecidableEq, Repr

/-! ### How a step can stop -/

/-- The faults. The one there is is safe: the machine stops where a claim could otherwise be made. -/
inductive Fault where
  /-- A record after a refusal: "Once `refused` is set, no later operation runs" (60_exceptions.md R240, 93_implementation_defined.md U8,
  `stuck`). Raised by every host operation and internal primitive, and by the fetch of any record. Safe. -/
  | runEnded
  deriving DecidableEq, Repr

/-- The refusals. -/
inductive Refusal where
  /-- An instruction that has no meaning yet, by its mnemonic. Raised by `exec` alone; no arm does now. Safe. -/
  | notModelled (mnemonic : String)
  deriving DecidableEq, Repr

/-- The outcome of an instruction or a step. -/
abbrev Result := Host.Outcome State Fault Refusal

/-! ### Reset -/

/-- A RowBuffer at reset (10_state.md R20). -/
def RowBuffer.reset : RowBuffer := ⟨[], 0, .fwd, .none, 0⟩

/-- The controller at the block's reset. "This whole state is arbitrary" (47_display_observer.md R211): every value here is the model's
(DESIGN CHOICE, log entry 11), with `undef` set. -/
def Panel.reset : Panel where
  lcd :=
    { sync := .unknown, phase := .hi, hi := 0, ac := 0, tgt := .ddram, ddram := [], cgram := [],
      d := false, c := false, b := false, id := false, s := false, dl := false, n := false, f := false,
      shift := 0, e := false, undef := true }
  time := { busy := 0, since := 0, hs := 0 }

/-- The bus side at reset (10_state.md R20; SR, PAR and SDA: DESIGN CHOICE, log entries 8 and 10). -/
def Bus.reset : Bus where
  sr := 0
  par := 0
  lines := { sda := false, sck := false, lat := true }
  trace := []
  fed := []
  misfed := false
  panel := Panel.reset

/-- The machine right after reset (10_state.md R20, 70_reset_and_hazards.md R270; `rowOffsets` and `numLines`: DESIGN CHOICE, log entry 9). -/
def State.reset : State where
  init := false
  ctl := { d := true, c := false, b := false }
  ent := { id := true, s := false }
  fn := { dl := false, n := true, f := false }
  rowOffsets := ⟨0, 0, 0, 0⟩
  numLines := 1
  row0 := RowBuffer.reset
  row1 := RowBuffer.reset
  ov := { active := false, expiry := 0 }
  clkLast := 0
  bus := Bus.reset
  refused := false
  refusal := none
  seq := .idle
  env := { oe := true, clock := 0 }
  inbox := []
  boots := 0

end Sys2Proof.Machine
end

