-- ==== Sys2Proof/Machine/Memory.lean ====
section
/-! DEFINITION. Memory as a list of cells in one canonical form: addresses strictly rising, and no cell that holds what an unlisted address
reads as. The controller's DDRAM (bytes, spec 20_memory.md R51) and CGRAM (5-bit rows, R52) are kept so; what an unlisted address
reads as is the argument `blank` (log entry 18). -/

namespace Sys2Proof.Machine.Memory

/-- What an unlisted DDRAM cell reads as: the space that the clear command writes everywhere (47_display_observer.md R217). -/
def ddramBlank : Byte := Config.blank

/-- What an unlisted CGRAM row reads as (DESIGN CHOICE, log entry 18). -/
def cgramBlank : BitVec 5 := 0

/-- Canonical form: strictly rising addresses and no blank cell. -/
def wf {w : Nat} (blank : BitVec w) : List (Nat × BitVec w) → Bool
  | [] => true
  | (k, x) :: m => x != blank && m.all (fun c => decide (k < c.1)) && wf blank m

/-- The value at an address. -/
def read {w : Nat} (blank : BitVec w) : List (Nat × BitVec w) → Nat → BitVec w
  | [], _ => blank
  | (k, x) :: m, a => if k = a then x else read blank m a

/-- A cell listed before the others, unless it is blank. -/
def cellBefore {w : Nat} (blank : BitVec w) (a : Nat) (v : BitVec w) (m : List (Nat × BitVec w)) : List (Nat × BitVec w) :=
  if v = blank then m else (a, v) :: m

/-- Write a value at an address, keeping the canonical form: writing `blank` removes the cell. -/
def write {w : Nat} (blank : BitVec w) : List (Nat × BitVec w) → Nat → BitVec w → List (Nat × BitVec w)
  | [], a, v => cellBefore blank a v []
  | (k, x) :: m, a, v =>
    if a < k then cellBefore blank a v ((k, x) :: m)
    else if a = k then cellBefore blank a v m
    else (k, x) :: write blank m a v

end Sys2Proof.Machine.Memory
end

