-- ==== Sys2Proof/Machine/Observer.lean ====
section
/-! DEFINITION. The controller behind the bus (spec 47_display_observer.md R210 to R225): what it takes from the parallel outputs, how it
assembles bytes, what each command and data byte does, and what its display shows. The spec gives these rules from general
knowledge of the HD44780 (log entry 12). -/

namespace Sys2Proof.Machine

/-! ### Command and data execution (R217, R218) -/

/-- 0x01, clear display (R217). -/
def Lcd.clear (l : Lcd) : Lcd := { l with ddram := [], ac := 0, tgt := .ddram, id := true, shift := 0 }

/-- 0x02 and 0x03, return home (R217). -/
def Lcd.home (l : Lcd) : Lcd := { l with ac := 0, tgt := .ddram, shift := 0 }

/-- 0x04 to 0x07, entry mode set (R217). -/
def Lcd.entryMode (i s : Bool) (l : Lcd) : Lcd := { l with id := i, s := s }

/-- 0x08 to 0x0F, display control (R217). -/
def Lcd.displayControl (d c b : Bool) (l : Lcd) : Lcd := { l with d := d, c := c, b := b }

/-- 0x10 to 0x1F, cursor or display shift: the block never emits it, and the observer sets `undef` (R217, 30_encoding.md R85). -/
def Lcd.cursorShift (l : Lcd) : Lcd := { l with undef := true }

/-- 0x20 to 0x3F, function set (R217). -/
def Lcd.functionSet (dl n f : Bool) (l : Lcd) : Lcd := { l with dl := dl, n := n, f := f }

/-- 0x40 to 0x7F, set CGRAM address (R217). -/
def Lcd.setCgram (a : BitVec 6) (l : Lcd) : Lcd := { l with ac := a.setWidth 7, tgt := .cgram }

/-- Whether a DDRAM address exists: 0x00 to 0x27 and 0x40 to 0x67 in two-line mode (R219). The spec gives no address of the one-line
mode, so none is taken to exist there (log entry 16). -/
def Lcd.hasCell (l : Lcd) (a : BitVec 7) : Bool :=
  l.n && (decide (a.toNat < 0x28) || (decide (0x40 ≤ a.toNat) && decide (a.toNat < 0x68)))

/-- 0x80 to 0xFF, set DDRAM address: `undef` where the address does not exist (R217, R219). -/
def Lcd.setDdram (a : BitVec 7) (l : Lcd) : Lcd :=
  { l with ac := a, tgt := .ddram, undef := l.undef || !l.hasCell a }

/-- The address counter after a data write (R222). -/
def Lcd.nextAC (l : Lcd) : BitVec 7 :=
  match l.tgt with
  | .cgram => BitVec.ofNat 7 ((l.ac.toNat + if l.id then 1 else 63) % 64)
  | .ddram =>
    if l.id then
      if l.ac = 0x27 then 0x40 else if l.ac = 0x67 then 0x00 else l.ac + 1
    else
      if l.ac = 0x40 then 0x27 else if l.ac = 0x00 then 0x67 else l.ac - 1

/-- The display shift after a data write to DDRAM (R218). -/
def Lcd.nextShift (l : Lcd) : Nat := if l.s then (l.shift + if l.id then 1 else 39) % 40 else l.shift

/-- A data byte (R218). -/
def Lcd.data (v : Byte) (l : Lcd) : Lcd :=
  match l.tgt with
  | .ddram =>
    { l with ddram := Memory.write Memory.ddramBlank l.ddram l.ac.toNat v, shift := l.nextShift, ac := l.nextAC }
  | .cgram =>
    { l with cgram := Memory.write Memory.cgramBlank l.cgram (l.ac.toNat % 64) (v.setWidth 5), ac := l.nextAC }

/-- A command byte, decoded by its highest set bit (R217); 0x00 is no operation. -/
def Lcd.command (v : Byte) (l : Lcd) : Lcd :=
  if v.getLsbD 7 then l.setDdram (v.setWidth 7)
  else if v.getLsbD 6 then l.setCgram (v.setWidth 6)
  else if v.getLsbD 5 then l.functionSet (v.getLsbD 4) (v.getLsbD 3) (v.getLsbD 2)
  else if v.getLsbD 4 then l.cursorShift
  else if v.getLsbD 3 then l.displayControl (v.getLsbD 2) (v.getLsbD 1) (v.getLsbD 0)
  else if v.getLsbD 2 then l.entryMode (v.getLsbD 1) (v.getLsbD 0)
  else if v.getLsbD 1 then l.home
  else if v.getLsbD 0 then l.clear
  else l

/-- A byte `(rs, v)` executes (R215). -/
def Lcd.execByte (rs : Bool) (v : Byte) (l : Lcd) : Lcd := if rs then l.data v else l.command v

/-- µs a byte's execution takes: clear and home longer than every other (R216). -/
def execTime (rs : Bool) (v : Byte) : Nat :=
  if !rs && (v == 0x01 || v == 0x02 || v == 0x03) then Config.lcdClearTime else Config.lcdByteTime

/-- A byte executes on the controller and keeps it busy (R215, R216). -/
def Panel.execByte (rs : Bool) (v : Byte) (p : Panel) : Panel where
  lcd := p.lcd.execByte rs v
  time := { p.time with busy := execTime rs v }

/-! ### Strobes (R213 to R216) -/

/-- How many handshake nibbles 0x3 there are in a row after this strobe: each at least 4.1 ms after the one before it (R214,
70_reset_and_hazards.md R277; log entry 14). -/
def nextHs (rs : Bool) (n : Nibble) (t : LcdTime) : Nat :=
  if rs || n != 0x3 then 0
  else if t.hs = 0 then 1
  else if t.since < Config.tInit1Min then 1
  else min 3 (t.hs + 1)

/-- This strobe is a handshake nibble too soon after the one before it: a gap after nibble 1 or 2 below 4.1 ms, or after nibble 3 below
150 µs. The controller's mode is then undetermined (70_reset_and_hazards.md R277; log entry 14). -/
def handshakeBroken (rs : Bool) (n : Nibble) (t : LcdTime) : Bool :=
  !rs &&
    ((n == 0x3 && decide (1 ≤ t.hs) && decide (t.since < Config.tInit1Min))
      || (n == 0x2 && decide (3 ≤ t.hs) && decide (t.since < Config.tInit3Min)))

/-- This strobe is the fourth handshake nibble, 0x2, at least 150 µs after three nibbles 0x3 (R214, 70_reset_and_hazards.md R277). -/
def handshakeDone (rs : Bool) (n : Nibble) (t : LcdTime) : Bool :=
  !rs && n == 0x2 && decide (3 ≤ t.hs) && decide (Config.tInit3Min ≤ t.since)

/-- The controller takes a nibble (R213): the handshake's last nibble brings it to SYNC4 from any state (R214); in SYNC4 nibbles
assemble into bytes, high first (R215); before, its state is not determined (log entry 15). A strobe before the last byte has been
executed sets `undef` (R216), and so does a handshake nibble too soon after the one before it (70_reset_and_hazards.md R277). -/
def Panel.strobe (rs : Bool) (n : Nibble) (p : Panel) : Panel :=
  if handshakeDone rs n p.time then
    { lcd := { p.lcd with sync := .sync4, phase := .hi, dl := false, undef := false },
      time := { busy := 0, since := 0, hs := 0 } }
  else
    let early := p.lcd.undef || decide (0 < p.time.busy) || handshakeBroken rs n p.time
    let time : LcdTime := { busy := p.time.busy, since := 0, hs := nextHs rs n p.time }
    match p.lcd.sync, p.lcd.phase with
    | .unknown, _ => { lcd := { p.lcd with undef := true }, time := time }
    | .sync4, .hi => { lcd := { p.lcd with hi := n, phase := .lo, undef := early }, time := time }
    | .sync4, .lo =>
      Panel.execByte rs (joinNibbles p.lcd.hi n) { lcd := { p.lcd with phase := .hi, undef := early }, time := time }

/-- The controller sees the parallel outputs: a falling E is a strobe, and nothing else has an effect (R212, R213). -/
def Panel.see (b : Byte) (p : Panel) : Panel :=
  if p.lcd.e && !b.getLsbD 5 then
    Panel.strobe (b.getLsbD 7) (b.extractLsb' 1 4) { p with lcd := { p.lcd with e := false } }
  else { p with lcd := { p.lcd with e := b.getLsbD 5 } }

/-- At least `t` µs pass (R210, R216). -/
def Panel.elapse (t : Nat) (p : Panel) : Panel :=
  { p with time := { p.time with busy := p.time.busy - t, since := p.time.since + t } }

/-- What the controller makes of one bus event (R212): a gated transmit never reaches it. -/
def Panel.observe (p : Panel) : Event → Panel
  | .xmit b true => p.see b
  | .xmit _ false => p
  | .wait t => p.elapse t

/-- What the controller makes of a trace, from any state of it (R210, R225). -/
def Panel.replay (p : Panel) (tr : List Event) : Panel := tr.foldl Panel.observe p

/-! ### What the display shows (R220 to R225) -/

/-- The DDRAM address of a row's first cell (R220). -/
def rowBase : RowIx → Nat
  | .row0 => 0x00
  | .row1 => 0x40

/-- The code cell (r, c) shows (R220). -/
def Lcd.cell (l : Lcd) (r : RowIx) (c : Nat) : Byte :=
  Memory.read Memory.ddramBlank l.ddram (rowBase r + (c + l.shift) % 40)

/-- The 16 codes a row shows (R220). -/
def Lcd.visible (l : Lcd) (r : RowIx) : List Byte := (List.range Config.cols).map (l.cell r)

/-- What is physically there to see (R220, R225). -/
inductive Picture where
  /-- Not determined (R225). -/
  | undefined
  /-- The display is off: nothing is shown (R220). -/
  | off
  /-- The 16 codes of each row (R220). -/
  | rows (row0 row1 : List Byte)
  deriving DecidableEq, Repr

/-- What `Render` (R225) makes of the controller's state, for a block whose INITIALIZE is complete or not. -/
def Lcd.picture (initDone : Bool) (l : Lcd) : Picture :=
  if !initDone || l.undef || decide (l.sync = .unknown) then .undefined
  else if !l.d then .off
  else .rows (l.visible .row0) (l.visible .row1)

/-- The 5 × 8 pattern a character code below 0x10 shows, the top row first (R223); a code above shows the character ROM (R230). -/
def Lcd.glyph (l : Lcd) (code : Byte) : Option (List (BitVec 5)) :=
  if code.toNat < 0x10 then
    some ((List.range 8).map fun i => Memory.read Memory.cgramBlank l.cgram (8 * (code.toNat % 8) + i))
  else none

/-- The visible cell the address counter addresses (R221). While it addresses CGRAM it addresses no cell of the display: the spec says only
"the cell `AC` addresses" (DESIGN CHOICE, log entry 34). -/
def Lcd.acCell (l : Lcd) : Option (RowIx × Nat) :=
  if l.tgt = .ddram then
    match (List.range Config.cols).find? (fun c => l.ac.toNat == rowBase .row0 + (c + l.shift) % 40) with
    | some c => some (.row0, c)
    | none =>
      match (List.range Config.cols).find? (fun c => l.ac.toNat == rowBase .row1 + (c + l.shift) % 40) with
      | some c => some (.row1, c)
      | none => none
  else none

/-- The cell with the underline: with `C = 1`, and nothing with `D = 0` (R220, R221). -/
def Lcd.cursorCell (l : Lcd) : Option (RowIx × Nat) := if l.d && l.c then l.acCell else none

/-- The cell whose character blinks: with `B = 1`, and nothing with `D = 0` (R220, R221). -/
def Lcd.blinkCell (l : Lcd) : Option (RowIx × Nat) := if l.d && l.b then l.acCell else none

end Sys2Proof.Machine
end

