-- ==== Sys2Proof/Machine/Operands.lean ====
section
/-! DEFINITION. The operand kinds (spec 30_encoding.md R87) and the refusal an operand outside its kind gets (60_exceptions.md R244), checked from
left to right (R250); the clamps (R247) and truncations (R248) an operand inside its kind gets. -/

namespace Sys2Proof.Machine

/-! ### Kinds -/

/-- A kind that holds the naturals below a bound. -/
def checkBelow (bound n : Nat) : Option RefCode := if n < bound then none else some .argRange

/-- `u8` (30_encoding.md R87). -/
def checkU8 (n : Nat) : Option RefCode := checkBelow 256 n

/-- `bit` and `bool` (30_encoding.md R87). -/
def checkBool (n : Nat) : Option RefCode := checkBelow 2 n

/-- `dir`: RTL = 0, LTR = 1 (30_encoding.md R87). -/
def checkDir (n : Nat) : Option RefCode := checkBelow 2 n

/-- `mode`: NONE = 0, BOUNCE = 1, LOOP = 2 (30_encoding.md R87). -/
def checkMode (n : Nat) : Option RefCode := checkBelow 3 n

/-- `u32` (30_encoding.md R87). -/
def checkU32 (n : Nat) : Option RefCode := checkBelow 4294967296 n

/-- `text`: a 0x00 in it is refused (30_encoding.md R87, R88). -/
def checkText (t : Text) : Option RefCode := if t.all (· != 0x00#8) then none else some .nulText

/-- `u8[8]`: exactly eight numbers, each a byte (30_encoding.md R87, R88). Of a bitmap that is wrong in both ways the number outside its kind is
reported, which 60_exceptions.md R250 names first (DEDUCED, log entry 36). -/
def checkBitmap (m : List Nat) : Option RefCode :=
  if m.all (fun n => decide (n < 256)) then (if m.length = 8 then none else some .bitmapLen) else some .argRange

/-- The first operand outside its kind, from left to right (60_exceptions.md R250). -/
def firstBad : List (Option RefCode) → Option RefCode
  | [] => none
  | some c :: _ => some c
  | none :: cs => firstBad cs

/-- A `bool` or `dir` operand as the bit that is stored (30_encoding.md R87). -/
def bitOf (n : Nat) : Bool := n == 1

/-- A `mode` operand as the mode that is stored (30_encoding.md R87). -/
def modeOf : Nat → Mode
  | 0 => .none
  | 1 => .bounce
  | _ => .loop

/-! ### Clamps and truncations -/

/-- `min(row, numLines − 1)` (41_controller_driver.md R124). -/
def clampLine (numLines row : Nat) : Nat := min row (numLines - 1)

/-- `min(row, ROWS − 1)`, as a row (42_scheduler.md R164, R166). -/
def clampRow (row : Nat) : RowIx := if min row (Config.rows - 1) = 0 then .row0 else .row1

/-- `min(slot, 7)` (41_controller_driver.md R134). -/
def clampSlot (slot : Nat) : Nat := min slot 7

/-- `trunc(t, N)` (42_scheduler.md R161). -/
def trunc (t : Text) (n : Nat) : Text := t.take n

/-- `rowOffsets[k]` (10_state.md R26). -/
def RowOffsets.at (o : RowOffsets) : Nat → Byte
  | 0 => o.o0
  | 1 => o.o1
  | 2 => o.o2
  | _ => o.o3

/-- A row's number (10_state.md R30). -/
def rowNumber : RowIx → Nat
  | .row0 => 0
  | .row1 => 1

end Sys2Proof.Machine
end

