-- ==== Sys2Proof/Machine/Ops.lean ====
section
/-! DEFINITION. The operations the meanings share: the serial link and the shift register (spec 40_bus_adapter.md R100 to R102), emitting bus events
(00_scope.md R14), the event sequences of a nibble write and of a controller byte (R103 to R106), the refusal (60_exceptions.md R240, the
block's only "exception") and the preludes (41_controller_driver.md R119, 42_scheduler.md R159), the clock read (10_state.md R36) and the
firmware reset (70_reset_and_hazards.md R270, R272). -/

namespace Sys2Proof.Machine

/-! ### The serial link and the shift register (40_bus_adapter.md R101) -/

/-- The levels the lines go through for one byte: each bit, the least significant first, with a clock pulse; then the latch low and high. -/
def lineSteps (b : Byte) : List Lines :=
  (List.range 8).flatMap (fun i => [⟨b.getLsbD i, false, true⟩, ⟨b.getLsbD i, true, true⟩, ⟨b.getLsbD i, false, true⟩])
    ++ [⟨b.getLsbD 7, false, false⟩, ⟨b.getLsbD 7, false, true⟩]

/-- One bit is shifted in: the first of eight ends at bit 0 (20_memory.md R54). -/
def shiftIn (bit : Bool) (sr : Byte) : Byte := (sr >>> 1) ||| bitAt bit 7

/-- The lines take new levels: SCK rising shifts SDA in, LAT rising commits `SR` to `PAR`, and the controller sees `PAR`
(40_bus_adapter.md R101, 47_display_observer.md R212). -/
def Bus.drive (bus : Bus) (l : Lines) : Bus :=
  let sr := if !bus.lines.sck && l.sck then shiftIn l.sda bus.sr else bus.sr
  if !bus.lines.lat && l.lat then { bus with lines := l, sr := sr, par := sr, panel := bus.panel.see sr }
  else { bus with lines := l, sr := sr }

/-- One bus byte goes over the link, from the idle levels SCK = 0 and LAT = 1 (40_bus_adapter.md R101). -/
def Bus.shiftOut (b : Byte) (bus : Bus) : Bus :=
  (lineSteps b).foldl Bus.drive { bus with lines := { bus.lines with sck := false, lat := true } }

/-! ### Bus events (00_scope.md R14, 10_state.md R38) -/

/-- Note what the controller's side is fed (47_display_observer.md R231). -/
def Bus.note (evs : List Event) (bus : Bus) : Bus := { bus with fed := bus.fed ++ evs }

/-- Record an event of the block. -/
def Bus.record (e : Event) (bus : Bus) : Bus := Bus.note [e] { bus with trace := bus.trace ++ [e] }

/-- Emit one event: with the gate open `Xmit` drives the link, with the gate closed it only leaves its record (40_bus_adapter.md R100, R102);
a wait lets time pass for the controller (47_display_observer.md R216). -/
def Bus.emit (bus : Bus) : Event → Bus
  | .xmit b true => (bus.shiftOut b).record (.xmit b true)
  | .xmit b false => bus.record (.xmit b false)
  | .wait t => Bus.record (.wait t) { bus with panel := bus.panel.elapse t }

/-- Emit events in order (20_memory.md R63). -/
def Bus.play (bus : Bus) (evs : List Event) : Bus := evs.foldl Bus.emit bus

/-- Emit events in order. -/
def State.emit (s : State) (evs : List Event) : State := { s with bus := s.bus.play evs }

/-- `TRANSMIT(word)` under the gate value `g` (40_bus_adapter.md R100). -/
def transmitEvents (g : Bool) (w : BusWord) : List Event := [.xmit (pack w) g]

/-- `NIBBLE(rs, n)`: one Enable pulse and the settle after it (40_bus_adapter.md R103). -/
def nibbleEvents (g rs : Bool) (n : Nibble) : List Event :=
  transmitEvents g ⟨rs, true, n⟩ ++ [.wait Config.tPwMin] ++ transmitEvents g ⟨rs, false, n⟩ ++ [.wait Config.tNibMin]

/-- `SEND(rs, v)`: the high nibble first (40_bus_adapter.md R105). -/
def sendEvents (g rs : Bool) (v : Byte) : List Event := nibbleEvents g rs (hiNibble v) ++ nibbleEvents g rs (loNibble v)

/-- `CMD(v)` (40_bus_adapter.md R106). -/
def cmdEvents (g : Bool) (v : Byte) : List Event := sendEvents g false v

/-- `DATA(v)` (40_bus_adapter.md R106). -/
def dataEvents (g : Bool) (v : Byte) : List Event := sendEvents g true v

/-- `DATA` of each byte in order. -/
def textEvents (g : Bool) (t : List Byte) : List Event := t.flatMap (dataEvents g)

/-- `CMD_SLOW(v)` (40_bus_adapter.md R106). -/
def cmdSlowEvents (g : Bool) (v : Byte) : List Event := cmdEvents g v ++ [.wait Config.tClearMin]

/-! ### State accessors -/

/-- `row[r]` (10_state.md R30). -/
def State.row (s : State) : RowIx → RowBuffer
  | .row0 => s.row0
  | .row1 => s.row1

/-- `row[r] <- rb`. -/
def State.setRow (s : State) (r : RowIx) (rb : RowBuffer) : State :=
  match r with
  | .row0 => { s with row0 := rb }
  | .row1 => { s with row1 := rb }

/-- `ctl.* <- c` (10_state.md R23). -/
def State.setCtl (s : State) (c : Ctl) : State := { s with ctl := c }

/-- `ent.* <- e` (10_state.md R24). -/
def State.setEnt (s : State) (e : Ent) : State := { s with ent := e }

/-- `ov.* <- o` (10_state.md R34). -/
def State.setOv (s : State) (o : Overlay) : State := { s with ov := o }

/-- `clk.last <- t` (10_state.md R36). -/
def State.setClk (s : State) (t : Nat) : State := { s with clkLast := t }

/-- A larger system feeds the controller these events, not over the block's own link: the controller observes them, and the block's fields and
its trace stay (10_state.md R20, 47_display_observer.md R231; log entry 21). The block's gate does not mute a feed (DESIGN CHOICE, log entry
21). -/
def State.feed (s : State) (evs : List Event) : State :=
  { s with bus := Bus.note evs { s.bus with panel := s.bus.panel.replay evs } }

/-- A larger system feeds the controller's side bytes that are no frame of their level: they stand for no bus byte, so that nothing reaches the
controller, and what was fed is not block-conformant from then on (47_display_observer.md R231; log entry 29). -/
def State.misfeed (s : State) : State := { s with bus := { s.bus with misfed := true } }

/-- `s` with the bytes of a record that have not been taken yet as its next input. -/
def State.putBack (s : State) (port : Port) (bytes : List Byte) : State :=
  match bytes with
  | [] => s
  | b :: bs => { s with inbox := .record port s.env (b :: bs) :: s.inbox }

/-! ### The clock (10_state.md R36) -/

/-- `clock()`: the host's reading, never below `clk.last`. Every draw R36 allows is the reading of some call, and no other value is drawn
(log entry 3). -/
def State.readClock (s : State) : Nat := max s.clkLast s.env.clock.toNat

/-! ### Refusing (60_exceptions.md R240, R249, R250) -/

/-- `refuse <Code>`: no event, and no field written but the sticky mark with its record. -/
def State.mark (s : State) (code : RefCode) (op : Option Nat) : State :=
  { s with refused := true, refusal := some ⟨code, op⟩ }

/-- The refusal of a call: the run goes on to a state in which nothing runs any more (log entry 4). -/
def refuse (code : RefCode) (op : Nat) (s : State) : Result := .next (s.mark code (some op))

/-- What every host operation does first, in the order of R250: a run that ended does not go on (R240); a call inside an operation is refused
(R245); then the operands from left to right (R244). -/
def hostCall (op : Nat) (bad : Option RefCode) (body : State → Result) (s : State) : Result :=
  if s.refused then .fault .runEnded
  else if s.seq ≠ .idle then refuse .reentrant op s
  else
    match bad with
    | some c => refuse c op s
    | none => body s

/-- The prelude of every operation but INITIALIZE (41_controller_driver.md R119, 42_scheduler.md R159): after the checks above, refuse
`RF_UNINIT` before INITIALIZE has completed. -/
def initialized (op : Nat) (bad : Option RefCode) (body : State → Result) (s : State) : Result :=
  hostCall op bad (fun s => if s.init then body s else refuse .uninit op s) s

/-- An internal primitive (30_encoding.md R86): inside an operation it emits under that operation's gate value and moves the sequencer on by the
events it emitted (10_state.md R21, R37); with no operation in progress it was issued by the host and is refused (60_exceptions.md R244;
log entry 19). -/
def internal (op : Nat) (body : Bool → State → State) (s : State) : Result :=
  if s.refused then .fault .runEnded
  else
    match s.seq with
    | .idle => refuse .badOp op s
    | .inOp o k g =>
      .next { body g s with seq := .inOp o (k + ((body g s).bus.trace.length - s.bus.trace.length)) g }

/-! ### Firmware reset (70_reset_and_hazards.md R270, R272; log entry 22) -/

/-- Every field of 10_state.md R20 takes its reset value, those the spec leaves at any value a free one; the controller keeps its state, and
the inputs not taken yet stay. The controller does not see the value `PAR` takes: `lcd.e`, the level of E it saw last, stays too (DESIGN CHOICE,
log entry 32: R39 and R270 give `PAR` any value there and do not say). -/
def State.firmwareReset (s : State) : State :=
  { State.reset with
    rowOffsets :=
      ⟨Config.bootRowOffset s.boots 0, Config.bootRowOffset s.boots 1, Config.bootRowOffset s.boots 2, Config.bootRowOffset s.boots 3⟩
    numLines := if Config.bootTwoLines s.boots then 2 else 1
    bus :=
      { sr := Config.bootSR s.boots, par := Config.bootPAR s.boots,
        lines := { sda := Config.bootSDA s.boots, sck := false, lat := true }, trace := [], fed := [], misfed := false,
        panel := s.bus.panel }
    env := s.env
    inbox := s.inbox
    boots := s.boots + 1 }

end Sys2Proof.Machine
end

