-- ==== Sys2Proof/Machine/Controller.lean ====
section
/-! DEFINITION. The rows of the table below the host's level, as a larger system feeds them to the controller: a controller byte is two nibble
writes (spec 30_encoding.md R75), a nibble write two bus bytes with the events between and after them (R74, 40_bus_adapter.md R103), and the
controller observes the bus bytes (47_display_observer.md R212 to R218). None of them is a call of the block: no field of the block is
written by anything outside it (10_state.md R20), so that `SR`, `PAR`, the lines and the trace stay (log entry 21). The block's side of the
same bytes, with the serial link, is TRANSMIT, NIBBLE and SEND. -/

namespace Sys2Proof.Machine

/-- A controller byte reaches the controller (30_encoding.md R75, R91). -/
def feedByte (rs : Bool) (v : Byte) (s : State) : Result := .next (s.feed (sendEvents true rs v))

/-- A nibble write reaches the controller (30_encoding.md R74, R91). -/
def feedNibble (rs : Bool) (n : Nibble) (s : State) : Result := .next (s.feed (nibbleEvents true rs n))

/-- A bus byte reaches the controller (30_encoding.md R71, 47_display_observer.md R212, R213). The larger system brings it, not the block, so
that nothing goes over the block's link (10_state.md R20), and the gate, which the spec lets mute the block's own TRANSMIT alone (R37,
40_bus_adapter.md R102), does not mute it: the `OE` that came with the record is not looked at (DESIGN CHOICE, log entry 21). -/
def feedBusByte (b : Byte) (s : State) : Result := .next (s.feed [.xmit b true])

/-- Clear display, 0x01 (30_encoding.md R76, 47_display_observer.md R217). -/
def execCmdClearDisplay (s : State) : Result := feedByte false clearByte s

/-- Return home, 0x02 or 0x03 (30_encoding.md R76, 47_display_observer.md R217). -/
def execCmdReturnHome (x : Bool) (s : State) : Result := feedByte false (homeByte ||| bitAt x 0) s

/-- Entry mode set (30_encoding.md R78, 47_display_observer.md R217). -/
def execCmdEntryModeSet (i sh : Bool) (s : State) : Result := feedByte false (entByte i sh) s

/-- Display control (30_encoding.md R77, 47_display_observer.md R217). -/
def execCmdDisplayControl (d c b : Bool) (s : State) : Result := feedByte false (ctlByte d c b) s

/-- Cursor or display shift: the block never emits it (30_encoding.md R85), and the observer's state is no longer determined
(47_display_observer.md R217). -/
def execCmdCursorDisplayShift (sc rl : Bool) (x : BitVec 2) (s : State) : Result :=
  feedByte false (0x10 ||| bitAt sc 3 ||| bitAt rl 2 ||| x.setWidth 8) s

/-- Function set (30_encoding.md R79, 47_display_observer.md R217). -/
def execCmdFunctionSet (dl n f : Bool) (x : BitVec 2) (s : State) : Result := feedByte false (fnByte dl n f ||| x.setWidth 8) s

/-- Set CGRAM address (30_encoding.md R81, 47_display_observer.md R217). -/
def execCmdSetCgramAddress (a : BitVec 6) (s : State) : Result := feedByte false (0x40 ||| a.setWidth 8) s

/-- Set DDRAM address (30_encoding.md R80, 47_display_observer.md R217, R219). -/
def execCmdSetDdramAddress (a : BitVec 7) (s : State) : Result := feedByte false (0x80 ||| a.setWidth 8) s

/-- A data byte (30_encoding.md R84, 47_display_observer.md R218, R222). -/
def execDataWrite (d : Byte) (s : State) : Result := feedByte true d s

/-- The handshake nibble 0x3 reaches the controller (30_encoding.md R83, 47_display_observer.md R213, R214). -/
def execHandshakeNibble8bit (s : State) : Result := feedNibble false 0x3 s

/-- The handshake nibble 0x2 reaches the controller (30_encoding.md R83, 47_display_observer.md R213, R214). -/
def execHandshakeNibble4bit (s : State) : Result := feedNibble false 0x2 s

/-- A bus byte of the closed set (30_encoding.md R71, 47_display_observer.md R212, R213). -/
def execBusByte (r e : Bool) (n : Nibble) (s : State) : Result := feedBusByte (pack ⟨r, e, n⟩) s

/-- A byte with bit 6 or bit 0 set, no row of the table: the controller has no line for these two bits (47_display_observer.md R212), and the
checker finds it in what was fed (30_encoding.md R73, 47_display_observer.md R231; log entry 29). -/
def strayBusByte (b : Byte) (s : State) : Result := feedBusByte b s

/-- Bytes that are no frame of their level (47_display_observer.md R231; log entry 29). -/
def noFrame (s : State) : Result := .next s.misfeed

/-- A plain nibble write, no row of the table, reaches the controller (30_encoding.md R74, 47_display_observer.md R213, R215). -/
def plainNibble (rs : Bool) (n : Nibble) (s : State) : Result := feedNibble rs n s

/-- The command byte 0x00, no row of the table: no operation (47_display_observer.md R217; log entry 28). -/
def noCommand (s : State) : Result := feedByte false 0x00 s

end Sys2Proof.Machine
end

