-- ==== Sys2Proof/Machine/Flags.lean ====
section
/-! DEFINITION. The flag groups (spec 10_state.md R23 to R25, R29) and their commands (41_controller_driver.md R125): every flag operation writes
one field and then sends the whole group at once. -/

namespace Sys2Proof.Machine

/-- `FUNCTION_FLAGS` = (DL 0, N 1, F 0) (00_scope.md R10, 10_state.md R25). -/
def functionFlags : Fn := { dl := false, n := true, f := false }

/-- The default `controlFlags` (10_state.md R23). -/
def defaultCtl : Ctl := { d := true, c := false, b := false }

/-- The default `entryModeFlags` (10_state.md R24). -/
def defaultEnt : Ent := { id := true, s := false }

/-- `rowOffsets` as INITIALIZE sets them: [0x00, 0x40, COLS, 0x40 + COLS] (10_state.md R26). -/
def initRowOffsets : RowOffsets :=
  ⟨0x00, 0x40, BitVec.ofNat 8 Config.cols, BitVec.ofNat 8 (0x40 + Config.cols)⟩

/-- `CTL(ctl.D, ctl.C, ctl.B)` (30_encoding.md R77). -/
def Ctl.byte (c : Ctl) : Byte := ctlByte c.d c.c c.b

/-- `ENT(ent.ID, ent.S)` (30_encoding.md R78). -/
def Ent.byte (e : Ent) : Byte := entByte e.id e.s

/-- `FN(fn.DL, fn.N, fn.F)` (30_encoding.md R79). -/
def Fn.byte (f : Fn) : Byte := fnByte f.dl f.n f.f

/-- Write `controlFlags`, then `ISSUE_CTL` (41_controller_driver.md R125). -/
def writeCtl (c : Ctl) (s : State) : State := (s.setCtl c).emit (cmdEvents s.env.oe c.byte)

/-- Write `entryModeFlags`, then `ISSUE_ENT` (41_controller_driver.md R125). -/
def writeEnt (e : Ent) (s : State) : State := (s.setEnt e).emit (cmdEvents s.env.oe e.byte)

end Sys2Proof.Machine
end

