-- ==== Sys2Proof/Machine/Driver.lean ====
section
/-! DEFINITION. The Controller Protocol Driver's operations (spec 41_controller_driver.md R119 to R134), a meaning each. -/

namespace Sys2Proof.Machine

/-! ### Initialization -/

/-- A handshake nibble and the wait after it (41_controller_driver.md R120). -/
def handshakeEvents (n : Nibble) (t : Nat) : List Event := nibbleEvents true false n ++ [.wait t]

/-- The events of INITIALIZE, never gated (41_controller_driver.md R120, 10_state.md R37). -/
def initEvents : List Event :=
  [.wait Config.tPowerupMin]
    ++ handshakeEvents 0x3 Config.tInit1Min ++ handshakeEvents 0x3 Config.tInit2Min ++ handshakeEvents 0x3 Config.tInit3Min
    ++ nibbleEvents true false 0x2
    ++ cmdEvents true functionFlags.byte ++ cmdEvents true defaultCtl.byte
    ++ cmdSlowEvents true clearByte ++ cmdEvents true defaultEnt.byte

/-- What INITIALIZE writes beside the bus (41_controller_driver.md R120). -/
def State.initFields (s : State) : State :=
  { s with rowOffsets := initRowOffsets, numLines := Config.rows, fn := functionFlags, ctl := defaultCtl, ent := defaultEnt, init := true }

/-- INITIALIZE (41_controller_driver.md R120): refused `RF_REINIT` when it has completed before. -/
def execInitialize (s : State) : Result :=
  hostCall 0x00 none (fun s => if s.init then refuse .reinit 0x00 s else .next (s.initFields.emit initEvents)) s

/-! ### Clear, home, cursor -/

/-- CLEAR (41_controller_driver.md R122). -/
def execClear (s : State) : Result :=
  initialized 0x01 none (fun s => .next (s.emit (cmdSlowEvents s.env.oe clearByte))) s

/-- HOME (41_controller_driver.md R123). -/
def execHome (s : State) : Result :=
  initialized 0x02 none (fun s => .next (s.emit (cmdSlowEvents s.env.oe homeByte))) s

/-- The address SET_CURSOR forms: `col + rowOffsets[min(row, numLines − 1)]`, on naturals (41_controller_driver.md R124). -/
def State.cursorAddress (s : State) (col row : Nat) : Nat := col + (s.rowOffsets.at (clampLine s.numLines row)).toNat

/-- SET_CURSOR(col, row): the row is clamped, the column is not (41_controller_driver.md R124). -/
def execSetCursor (col row : Nat) (s : State) : Result :=
  initialized 0x03 (firstBad [checkU8 col, checkU8 row])
    (fun s => .next (s.emit (cmdEvents s.env.oe (ddaByte (s.cursorAddress col row))))) s

/-! ### Flag operations (41_controller_driver.md R125) -/

/-- DISPLAY_ON (41_controller_driver.md R126). -/
def execDisplayOn (s : State) : Result :=
  initialized 0x04 none (fun s => .next (writeCtl { s.ctl with d := true } s)) s

/-- DISPLAY_OFF (41_controller_driver.md R127). -/
def execDisplayOff (s : State) : Result :=
  initialized 0x05 none (fun s => .next (writeCtl { s.ctl with d := false } s)) s

/-- SET_CURSOR_VISIBLE(v) (41_controller_driver.md R128). -/
def execSetCursorVisible (v : Nat) (s : State) : Result :=
  initialized 0x06 (firstBad [checkBool v]) (fun s => .next (writeCtl { s.ctl with c := bitOf v } s)) s

/-- BLINK_ON (41_controller_driver.md R129). -/
def execBlinkOn (s : State) : Result :=
  initialized 0x07 none (fun s => .next (writeCtl { s.ctl with b := true } s)) s

/-- BLINK_OFF (41_controller_driver.md R130). -/
def execBlinkOff (s : State) : Result :=
  initialized 0x08 none (fun s => .next (writeCtl { s.ctl with b := false } s)) s

/-- SET_SCROLL_DIRECTION(d), LTR = 1 and RTL = 0 (41_controller_driver.md R131). -/
def execSetScrollDirection (d : Nat) (s : State) : Result :=
  initialized 0x09 (firstBad [checkDir d]) (fun s => .next (writeEnt { s.ent with id := bitOf d } s)) s

/-- SET_AUTOSCROLL(v) (41_controller_driver.md R132). -/
def execSetAutoscroll (v : Nat) (s : State) : Result :=
  initialized 0x0A (firstBad [checkBool v]) (fun s => .next (writeEnt { s.ent with s := bitOf v } s)) s

/-! ### Data -/

/-- WRITE_GLYPH(b) (41_controller_driver.md R133). -/
def execWriteGlyph (b : Nat) (s : State) : Result :=
  initialized 0x0B (firstBad [checkU8 b]) (fun s => .next (s.emit (dataEvents s.env.oe (BitVec.ofNat 8 b)))) s

/-- DEFINE_GLYPH(slot, bitmap): the slot is clamped, the bytes are sent unmasked (41_controller_driver.md R134). -/
def execDefineGlyph (slot : Nat) (bitmap : List Nat) (s : State) : Result :=
  initialized 0x0C (firstBad [checkU8 slot, checkBitmap bitmap])
    (fun s => .next (s.emit (cmdEvents s.env.oe (cgaByte (clampSlot slot)) ++ textEvents s.env.oe (bitmap.map (BitVec.ofNat 8))))) s

end Sys2Proof.Machine
end

