-- ==== Sys2Proof/Machine/Scheduler.lean ====
section
/-! DEFINITION. The Overlay/Scroll Scheduler (spec 42_scheduler.md R159 to R178): windows and renders, the scroll steps, and a meaning for each of
its operations. -/

namespace Sys2Proof.Machine

/-! ### Windows and renders (42_scheduler.md R162, R163, R176) -/

/-- `window(rb)`: the 16 bytes from the offset on of a long text, or the whole text padded with spaces to 16 (42_scheduler.md R163). -/
def RowBuffer.window (rb : RowBuffer) : List Byte :=
  if Config.cols < rb.content.length then (rb.content.drop rb.offset).take Config.cols
  else rb.content ++ List.replicate (Config.cols - rb.content.length) Config.blank

/-- The events of `RENDER_ROW(r)` under the gate value `g` (42_scheduler.md R162). -/
def State.renderEvents (s : State) (g : Bool) (r : RowIx) : List Event :=
  cmdEvents g (ddaByte (0 + (s.rowOffsets.at (rowNumber r)).toNat)) ++ textEvents g (s.row r).window

/-- `RENDER_ROW(r)` (42_scheduler.md R162). -/
def State.render (s : State) (g : Bool) (r : RowIx) : State := s.emit (s.renderEvents g r)

/-- The events of `OVERLAY_ROW(r, t)`: the address command even for an empty text, no padding (42_scheduler.md R176). -/
def State.overlayRowEvents (s : State) (g : Bool) (r : RowIx) (t : Text) : List Event :=
  cmdEvents g (ddaByte (s.rowOffsets.at (rowNumber r)).toNat) ++ textEvents g (trunc t Config.cols)

/-! ### Background operations -/

/-- The RowBuffer SET_BACKGROUND leaves (42_scheduler.md R164): mode and deadline are kept. -/
def RowBuffer.setText (rb : RowBuffer) (text : Text) : RowBuffer :=
  { rb with content := trunc text Config.contentMax, offset := 0, dir := .fwd }

/-- The body of SET_BACKGROUND on row `r` (42_scheduler.md R164): rendered at once while no overlay is active. -/
def setBackgroundBody (r : RowIx) (text : Text) (s : State) : State :=
  let t := s.setRow r ((s.row r).setText text)
  if t.ov.active then t else t.render t.env.oe r

/-- SET_BACKGROUND(row, text) (42_scheduler.md R164). -/
def execSetBackground (row : Nat) (text : Text) (s : State) : Result :=
  initialized 0x12 (firstBad [checkU8 row, checkText text]) (fun s => .next (setBackgroundBody (clampRow row) text s)) s

/-- SET_BACKGROUND_ROWS(upper, lower): one prelude and one gate sample for both (42_scheduler.md R165). -/
def execSetBackgroundRows (upper lower : Text) (s : State) : Result :=
  initialized 0x13 (firstBad [checkText upper, checkText lower])
    (fun s => .next (setBackgroundBody .row1 lower (setBackgroundBody .row0 upper s))) s

/-- SET_ANIMATION_MODE(row, mode): no bus event (42_scheduler.md R166). -/
def execSetAnimationMode (row mode : Nat) (s : State) : Result :=
  initialized 0x14 (firstBad [checkU8 row, checkMode mode])
    (fun s => .next (s.setRow (clampRow row) { s.row (clampRow row) with mode := modeOf mode })) s

/-! ### Overlay operations -/

/-- The events of an overlay: clear, then both rows (42_scheduler.md R167). -/
def State.overlayEvents (s : State) (g : Bool) (t0 t1 : Text) : List Event :=
  cmdSlowEvents g clearByte ++ s.overlayRowEvents g .row0 t0 ++ s.overlayRowEvents g .row1 t1

/-- The body of SHOW_OVERLAY in operation `op` (42_scheduler.md R167): the clock is read before the first event (20_memory.md R68), and an
expiry at or above `TIME_LIMIT` is refused before anything is written (R159). -/
def showOverlayBody (op : Nat) (t0 t1 : Text) (dur : Nat) (s : State) : Result :=
  if Config.timeLimit ≤ s.readClock + dur then refuse .timeRange op s
  else
    .next (((s.setClk s.readClock).emit (s.overlayEvents s.env.oe t0 t1)).setOv
      { active := true, expiry := s.readClock + dur })

/-- SHOW_OVERLAY(t0, t1, dur) (42_scheduler.md R167). -/
def execShowOverlay (t0 t1 : Text) (dur : Nat) (s : State) : Result :=
  initialized 0x10 (firstBad [checkText t0, checkText t1, checkU32 dur]) (showOverlayBody 0x10 t0 t1 dur) s

/-- PRINT(text, timeoutMs): an overlay on row 0, or the background of row 0 when the timeout is 0 (42_scheduler.md R168). -/
def execPrint (text : Text) (timeoutMs : Nat) (s : State) : Result :=
  initialized 0x11 (firstBad [checkText text, checkU32 timeoutMs])
    (fun s =>
      if timeoutMs = 0 then .next (setBackgroundBody .row0 text s) else showOverlayBody 0x11 text [] timeoutMs s) s

/-! ### The scroll state machine (42_scheduler.md R172 to R174) -/

/-- `M(r) = len(content) − COLS`, the largest offset of a long text (42_scheduler.md, head). -/
def RowBuffer.maxOffset (rb : RowBuffer) : Nat := rb.content.length - Config.cols

/-- `eligible(r, now)` (42_scheduler.md R172). -/
def RowBuffer.eligible (rb : RowBuffer) (now : Nat) : Bool :=
  rb.mode != .none && decide (Config.cols < rb.content.length) && decide (rb.deadline ≤ now)

/-- The direction a BOUNCE step goes in: turned at an end already reached (42_scheduler.md R173, the two guards). -/
def RowBuffer.bounceDir (rb : RowBuffer) : Dir :=
  let d := if rb.dir = .fwd ∧ rb.maxOffset ≤ rb.offset then .bwd else rb.dir
  if d = .bwd ∧ rb.offset = 0 then .fwd else d

/-- `offset + δ(dir)` (10_state.md R32, 42_scheduler.md R173). -/
def RowBuffer.bounceOffset (rb : RowBuffer) : Nat :=
  match rb.bounceDir with
  | .fwd => rb.offset + 1
  | .bwd => rb.offset - 1

/-- STEP_ROW under BOUNCE: advance, then turn on reaching an end (42_scheduler.md R173). -/
def RowBuffer.bounceStep (rb : RowBuffer) : RowBuffer :=
  { rb with
    offset := rb.bounceOffset
    dir := if rb.bounceOffset = rb.maxOffset then .bwd else if rb.bounceOffset = 0 then .fwd else rb.bounceDir }

/-- STEP_ROW under LOOP: forward, and from the end to 0 (42_scheduler.md R174). -/
def RowBuffer.loopStep (rb : RowBuffer) : RowBuffer :=
  { rb with offset := if rb.maxOffset ≤ rb.offset then 0 else rb.offset + 1, dir := .fwd }

/-- STEP_ROW (42_scheduler.md R173, R174). A row of at most 16 bytes, or one whose mode is NONE, is never stepped: it stays (R172; log
entry 20). -/
def RowBuffer.step (rb : RowBuffer) : RowBuffer :=
  if Config.cols < rb.content.length then
    match rb.mode with
    | .none => rb
    | .bounce => rb.bounceStep
    | .loop => rb.loopStep
  else rb

/-! ### TICK (42_scheduler.md R169 to R171, R175) -/

/-- EXPIRE(): clear, render both rows at their current offsets, idle again (42_scheduler.md R170). -/
def State.expire (s : State) : State :=
  (s.emit (cmdSlowEvents s.env.oe clearByte ++ s.renderEvents s.env.oe .row0 ++ s.renderEvents s.env.oe .row1)).setOv
    { s.ov with active := false }

/-- One row's part of a tick: step, render that row, next deadline (42_scheduler.md R169, R175). -/
def State.tickRow (now : Nat) (r : RowIx) (s : State) : State :=
  if (s.row r).eligible now then
    let t := (s.setRow r (s.row r).step).render s.env.oe r
    t.setRow r { t.row r with deadline := now + Config.stepInterval }
  else s

/-- A tick's work once its time is taken (42_scheduler.md R169): while an overlay is active no row steps (R171); row 0 before row 1. -/
def State.tickWork (now : Nat) (s : State) : State :=
  if s.ov.active then
    if s.ov.expiry ≤ now then s.expire else s
  else (s.tickRow now .row0).tickRow now .row1

/-- The body of TICK: its time checks come before any write (42_scheduler.md R159, R169). -/
def tickBody (now : Nat) (s : State) : Result :=
  if now < s.clkLast then refuse .timeBackward 0x15 s
  else if Config.timeLimit ≤ now + Config.stepInterval then refuse .timeRange 0x15 s
  else .next ((s.setClk now).tickWork now)

/-- TICK(now) (42_scheduler.md R169). -/
def execTick (now : Nat) (s : State) : Result :=
  initialized 0x15 (firstBad [checkU32 now]) (tickBody now) s

end Sys2Proof.Machine
end

