-- ==== Sys2Proof/Machine/Internal.lean ====
section
/-! DEFINITION. The internal primitives (spec 30_encoding.md R86): TRANSMIT, NIBBLE and SEND of the Serial Bus Adapter (40_bus_adapter.md R100 to
R105), RENDER_ROW and STEP_ROW of the Scheduler (42_scheduler.md R162, R173, R174). Each runs inside an operation, under the gate value
that operation sampled; issued by the host it is refused `RF_BAD_OP`. -/

namespace Sys2Proof.Machine

/-- TRANSMIT(word) (40_bus_adapter.md R100). -/
def execTransmit (word : BusWord) (s : State) : Result :=
  internal 0x18 (fun g s => s.emit (transmitEvents g word)) s

/-- NIBBLE(rs, n) (40_bus_adapter.md R103). -/
def execNibble (rs : Bool) (n : Nibble) (s : State) : Result :=
  internal 0x19 (fun g s => s.emit (nibbleEvents g rs n)) s

/-- SEND(rs, v) (40_bus_adapter.md R105). -/
def execSend (rs : Bool) (v : Byte) (s : State) : Result :=
  internal 0x1A (fun g s => s.emit (sendEvents g rs v)) s

/-- RENDER_ROW(r) (42_scheduler.md R162). -/
def execRenderRow (r : RowIx) (s : State) : Result :=
  internal 0x1B (fun g s => s.render g r) s

/-- STEP_ROW(r) (42_scheduler.md R173, R174). -/
def execStepRow (r : RowIx) (s : State) : Result :=
  internal 0x1C (fun _ s => s.setRow r (s.row r).step) s

end Sys2Proof.Machine
end

