-- ==== Sys2Proof/Machine/Dispatch.lean ====
section
/-! DEFINITION. One arm per instruction: the meaning it has. -/

namespace Sys2Proof.Machine

def exec (i : Instr) (s : State) : Host.Outcome State Fault Refusal :=
  match i with
  -- Controller Protocol Driver
  | .opInitialize => Sys2Proof.Machine.execInitialize s
  | .clear => Sys2Proof.Machine.execClear s
  | .home => Sys2Proof.Machine.execHome s
  | .setCursor col row => Sys2Proof.Machine.execSetCursor col row s
  | .displayOn => Sys2Proof.Machine.execDisplayOn s
  | .displayOff => Sys2Proof.Machine.execDisplayOff s
  | .setCursorVisible v => Sys2Proof.Machine.execSetCursorVisible v s
  | .blinkOn => Sys2Proof.Machine.execBlinkOn s
  | .blinkOff => Sys2Proof.Machine.execBlinkOff s
  | .setScrollDirection d => Sys2Proof.Machine.execSetScrollDirection d s
  | .setAutoscroll v => Sys2Proof.Machine.execSetAutoscroll v s
  | .writeGlyph b => Sys2Proof.Machine.execWriteGlyph b s
  | .defineGlyph slot bitmap => Sys2Proof.Machine.execDefineGlyph slot bitmap s
  -- Overlay/Scroll Scheduler
  | .showOverlay t0 t1 dur => Sys2Proof.Machine.execShowOverlay t0 t1 dur s
  | .print text timeoutMs => Sys2Proof.Machine.execPrint text timeoutMs s
  | .setBackground row text => Sys2Proof.Machine.execSetBackground row text s
  | .setBackgroundRows upper lower => Sys2Proof.Machine.execSetBackgroundRows upper lower s
  | .setAnimationMode row mode => Sys2Proof.Machine.execSetAnimationMode row mode s
  | .tick now => Sys2Proof.Machine.execTick now s
  -- Internal primitives
  | .transmit word => Sys2Proof.Machine.execTransmit word s
  | .nibble rs n => Sys2Proof.Machine.execNibble rs n s
  | .send rs v => Sys2Proof.Machine.execSend rs v s
  | .renderRow r => Sys2Proof.Machine.execRenderRow r s
  | .stepRow r => Sys2Proof.Machine.execStepRow r s
  -- Controller bytes
  | .cmdClearDisplay => Sys2Proof.Machine.execCmdClearDisplay s
  | .cmdReturnHome x => Sys2Proof.Machine.execCmdReturnHome x s
  | .cmdEntryModeSet i' sh => Sys2Proof.Machine.execCmdEntryModeSet i' sh s
  | .cmdDisplayControl d c b => Sys2Proof.Machine.execCmdDisplayControl d c b s
  | .cmdCursorDisplayShift sc rl x => Sys2Proof.Machine.execCmdCursorDisplayShift sc rl x s
  | .cmdFunctionSet dl n f x => Sys2Proof.Machine.execCmdFunctionSet dl n f x s
  | .cmdSetCgramAddress a => Sys2Proof.Machine.execCmdSetCgramAddress a s
  | .cmdSetDdramAddress a => Sys2Proof.Machine.execCmdSetDdramAddress a s
  | .dataWrite d => Sys2Proof.Machine.execDataWrite d s
  -- Handshake nibbles and the bus byte
  | .handshakeNibble8bit => Sys2Proof.Machine.execHandshakeNibble8bit s
  | .handshakeNibble4bit => Sys2Proof.Machine.execHandshakeNibble4bit s
  | .busByte r e n => Sys2Proof.Machine.execBusByte r e n s

end Sys2Proof.Machine
end

