-- ==== Sys2Proof/Machine/Fetch.lean ====
section
/-! DEFINITION. What a step runs next (spec 10_state.md R21: the block has no program counter and fetches no stored program; 20_memory.md R66). The
next input is taken from `inbox`; a host record is checked in the order of 60_exceptions.md R250 (log entries 2, 6 and 7). -/

namespace Sys2Proof.Machine

/-- What the fetch hands to the step. -/
inductive Fetched where
  /-- Run this instruction in this state. -/
  | run (i : Instr) (s : State)
  /-- There is no instruction to run: the step ends so. -/
  | ends (r : Result)

/-- The op code a host record names, when it has a first byte. -/
def recordOp : List Byte → Option Nat
  | [] => none
  | b :: _ => some b.toNat

/-- The refusal a host record gets that decodes to no instruction (60_exceptions.md R244). An operand that is not there, or that
its marker bytes make no text or bitmap of, is outside its kind (log entry 6); a record with no byte at all names no op code and is refused `RF_BAD_OP` (DESIGN CHOICE, log entry 35: the spec has no such
record). -/
def recordCode : DecodeError → RefCode
  | .empty => .badOp
  | .unassignedOp _ => .badOp
  | .internalOp _ => .badOp
  | .truncated _ => .argRange
  | .operandKind _ => .argRange
  | .notBusByte _ => .badOp
  | .badFrame => .badOp
  | .noCommand => .badOp
  | .plainNibble _ _ => .badOp

/-- A record at the host's port: after a refusal nothing runs (R240); then `RF_REENTRANT`, then `RF_BAD_OP`, then the operands (R250). A record
whose operand bytes end too early or go on too long is refused `RF_ARG_RANGE` as a whole, whatever its other operands are: where one further
left is outside its kind too, as a 0x00 in the first of two texts, R250 does not say which code is reported, since no record of the spec
lacks an operand (DESIGN CHOICE, log entry 6). -/
def fetchHost (bytes : List Byte) (s : State) : Fetched :=
  if s.seq ≠ .idle then .ends (.next (s.mark .reentrant (recordOp bytes)))
  else
    match decode .host bytes with
    | .ok (i, []) => .run i s
    | .ok (_, _ :: _) => .ends (.next (s.mark .argRange (recordOp bytes)))
    | .error e => .ends (.next (s.mark (recordCode e) (recordOp bytes)))

/-- A record of the block's own sequencer: an internal primitive. Between operations it was issued by the host and is refused `RF_BAD_OP`
(60_exceptions.md R244), whatever its operands are (R250); inside one, an operand outside its kind is refused `RF_ARG_RANGE` (30_encoding.md
R87; log entry 19). -/
def fetchSeq (bytes : List Byte) (s : State) : Fetched :=
  match decode .seq bytes with
  | .ok (i, []) => .run i s
  | .ok (_, _ :: _) => .ends (.next (s.mark (if s.seq = .idle then .badOp else .argRange) (recordOp bytes)))
  | .error e => .ends (.next (s.mark (if s.seq = .idle then .badOp else recordCode e) (recordOp bytes)))

/-- A record at a port of the controller's side, a frame of `n` bytes at a time; with no byte nothing is fed. What has no row of the table is
fed too, and is found by the checker (47_display_observer.md R231, 93_implementation_defined.md U20; log entry 29). -/
def fetchLine (n : Nat) (port : Port) (bytes : List Byte) (s : State) : Fetched :=
  if bytes.isEmpty then .ends (.next s)
  else
    match decode port (bytes.take n) with
    | .ok (i, _) => .run i (s.putBack port (bytes.drop n))
    | .error .noCommand => .ends (noCommand (s.putBack port (bytes.drop n)))
    | .error (.plainNibble rs x) => .ends (plainNibble rs x (s.putBack port (bytes.drop n)))
    | .error (.notBusByte b) => .ends (strayBusByte b (s.putBack port (bytes.drop n)))
    | .error _ => .ends (noFrame (s.putBack port (bytes.drop n)))

/-- A record at a port. -/
def fetchRecord (port : Port) (bytes : List Byte) (s : State) : Fetched :=
  if s.refused then .ends (.fault .runEnded)
  else
    match port with
    | .host => fetchHost bytes s
    | .seq => fetchSeq bytes s
    | .ctl => fetchLine 2 .ctl bytes s
    | .nib => fetchLine 1 .nib bytes s
    | .bus => fetchLine 1 .bus bytes s

/-- Take the next input. A firmware reset is taken between steps like every other input, so that it never cuts a host operation in the middle:
70_reset_and_hazards.md R272 keeps the controller as it was and does not say whether the block can be reset while it sends (DESIGN CHOICE, log
entry 37). With no input, the block waits for its host and nothing changes (70_reset_and_hazards.md R271, 60_exceptions.md R262). -/
def fetch (s : State) : Fetched :=
  match s.inbox with
  | [] => .ends (.next s)
  | .record port env bytes :: rest => fetchRecord port bytes { s with env := env, inbox := rest }
  | .pause t :: rest => .ends (.next ({ s with inbox := rest }.feed [.wait t]))
  | .firmwareReset :: rest => .ends (.next ({ s with inbox := rest }).firmwareReset)

/-- The sequencer position a table word of an internal primitive needs, so that it runs inside an operation (log entry 7): TICK, in which
every one of them occurs, at its start, with the gate open. -/
def seqFor (p : Port) (q : Seq) : Seq :=
  match p with
  | .seq =>
    match q with
    | .idle => .inOp 0x15 0 true
    | .inOp o k g => .inOp o k g
  | .host => q
  | .ctl => q
  | .nib => q
  | .bus => q

/-- `s` with the instruction of a table word as its next input. -/
def placeTableWord (s : State) (nbits w : Nat) : State :=
  match readTableWord nbits w with
  | some (_, port, bytes) => { s with inbox := .record port s.env bytes :: s.inbox, seq := seqFor port s.seq }
  | none => { s with inbox := .record .host s.env (tableBytes nbits w) :: s.inbox }

end Sys2Proof.Machine
end

