-- ==== Sys2Proof/Machine/Step.lean ====
section
/-! DEFINITION. One step: take the next input and run the instruction it stands for (spec 60_exceptions.md R246: one host operation is one atomic
step; log entry 1). -/

namespace Sys2Proof.Machine

/-- One step of the machine. -/
def step (s : State) : Host.Outcome State Fault Refusal :=
  match fetch s with
  | .run i t => exec i t
  | .ends r => r

/-- `s` with the instruction whose bits are `w` where `step` takes its next instruction from. -/
def State.withFetchWord (s : State) (nbits w : Nat) : State := placeTableWord s nbits w

end Sys2Proof.Machine
end

