-- ==== Sys2Proof/Machine/Checker.lean ====
section
/-! DEFINITION. Reading a trace back (spec 30_encoding.md R92), the trace checker (47_display_observer.md R231) with its never-emitted set (30_encoding.md
R85), and timed runs of a trace (40_bus_adapter.md R104, 10_state.md R38). -/

namespace Sys2Proof.Machine

/-! ### Reading a trace (30_encoding.md R92) -/

/-- The bus bytes of a trace, in order. -/
def xmitBytes : List Event → List Byte
  | [] => []
  | .xmit b _ :: tr => b :: xmitBytes tr
  | .wait _ :: tr => xmitBytes tr

/-- The sum of a trace's waits, in µs: the least time it takes (70_reset_and_hazards.md R287). -/
def waitSum : List Event → Nat
  | [] => 0
  | .xmit _ _ :: tr => waitSum tr
  | .wait t :: tr => t + waitSum tr

/-- The BusWord of a byte of the closed set (30_encoding.md R93). -/
def unpack (b : Byte) : Option BusWord :=
  if b.getLsbD 6 || b.getLsbD 0 then none else some ⟨b.getLsbD 7, b.getLsbD 5, b.extractLsb' 1 4⟩

/-- Bus bytes in pairs `(pack(rs, 1, n), pack(rs, 0, n))`, each one nibble write `(rs, n)` (30_encoding.md R74, R92). -/
def pairNibbles : List Byte → Option (List (Bool × Nibble))
  | [] => some []
  | [_] => none
  | a :: b :: bs =>
    match unpack a, unpack b with
    | some wa, some wb =>
      if wa.e && !wb.e && wa.rs == wb.rs && wa.n == wb.n then
        match pairNibbles bs with
        | some ns => some ((wa.rs, wa.n) :: ns)
        | none => none
      else none
    | _, _ => none

/-- Nibble writes in pairs, high nibble first, each one controller byte `(rs, v)` (30_encoding.md R75, R92). -/
def pairBytes : List (Bool × Nibble) → Option (List (Bool × Byte))
  | [] => some []
  | [_] => none
  | h :: l :: ns =>
    if h.1 == l.1 then
      match pairBytes ns with
      | some bs => some ((h.1, joinNibbles h.2 l.2) :: bs)
      | none => none
    else none

/-- The four handshake nibbles (30_encoding.md R83). -/
def handshakeNibbles : List (Bool × Nibble) := [(false, 0x3), (false, 0x3), (false, 0x3), (false, 0x2)]

/-! ### The trace checker (47_display_observer.md R231) -/

/-- What is wrong with a trace the block did not produce (47_display_observer.md R231, 93_implementation_defined.md U20). -/
inductive TraceFault where
  /-- (a) A byte outside the closed set (30_encoding.md R93). -/
  | outsideSet
  /-- (b) Bytes that do not pair into nibble writes, or nibble writes that do not pair into controller bytes (30_encoding.md R92). -/
  | unpaired
  /-- (b) The trace does not begin with the handshake (30_encoding.md R83, R92). -/
  | noHandshake
  /-- (b) Bytes that are no frame of their level were fed, so that what was fed is no sequence of nibble writes and bytes (log entry 29). -/
  | noFrame
  /-- (c) A command of the never-emitted set (30_encoding.md R85). -/
  | neverEmitted
  /-- (d) An interval below the waits the rules put there (40_bus_adapter.md R104). -/
  | tooEarly
  deriving DecidableEq, Repr

/-- A command byte the block never emits (30_encoding.md R85 a to d); `first` for the first byte after the handshake, INITIALIZE's function
set (log entry 25). -/
def neverEmitted (first : Bool) (c : Bool × Byte) : Bool :=
  !c.1 &&
    ((decide (0x10 ≤ c.2.toNat) && decide (c.2.toNat < 0x20))
      || c.2 == 0x03
      || (decide (0x20 ≤ c.2.toNat) && decide (c.2.toNat < 0x40) && !(first && c.2 == 0x28))
      || (decide (0x40 ≤ c.2.toNat) && decide (c.2.toNat < 0x80) && decide (c.2.toNat % 8 ≠ 0)))

/-- No command of a list of controller bytes is in the never-emitted set. -/
def commandsOk : List (Bool × Byte) → Bool
  | [] => true
  | c :: cs => !neverEmitted true c && cs.all (fun d => !neverEmitted false d)

/-- The controller bytes after the handshake, or what is wrong; an empty trace has none (30_encoding.md R92). -/
def readTrace (tr : List Event) : Except TraceFault (List (Bool × Byte)) :=
  if (xmitBytes tr).any (fun b => (unpack b).isNone) then .error .outsideSet
  else
    match pairNibbles (xmitBytes tr) with
    | none => .error .unpaired
    | some ns =>
      if ns.isEmpty then .ok []
      else if ns.take 4 ≠ handshakeNibbles then .error .noHandshake
      else
        match pairBytes (ns.drop 4) with
        | none => .error .unpaired
        | some bs => .ok bs

/-! ### The intervals (part (d)) -/

/-- The waits before each bus byte of a trace, and after the last one, with `w` µs waited before it begins. -/
def gaps (w : Nat) : List Event → List Nat
  | [] => [w]
  | .xmit _ _ :: tr => w :: gaps 0 tr
  | .wait t :: tr => gaps (w + t) tr

/-- The settle after each handshake nibble (40_bus_adapter.md R103, 41_controller_driver.md R120, 70_reset_and_hazards.md R277). -/
def handshakeSettles : List Nat :=
  [Config.tNibMin + Config.tInit1Min, Config.tNibMin + Config.tInit2Min, Config.tNibMin + Config.tInit3Min, Config.tNibMin]

/-- The settle after each nibble of a controller byte: after clear and home 2 ms more (40_bus_adapter.md R103, R106, 70_reset_and_hazards.md
R275, R276). -/
def byteSettles (c : Bool × Byte) : List Nat :=
  [Config.tNibMin, Config.tNibMin + if !c.1 && (c.2 == clearByte || c.2 == homeByte) then Config.tClearMin else 0]

/-- The strobe of each nibble write and the settle after it. -/
def strobeGaps (settles : List Nat) : List Nat := settles.flatMap fun t => [Config.tPwMin, t]

/-- The least waits before each bus byte, and after the last one, of the trace whose controller bytes after the handshake are `cs`: those the
block's rules put there, which may be lengthened and not shortened or dropped (40_bus_adapter.md R104; the power-up wait among them,
log entry 33). -/
def leastGaps (cs : List (Bool × Byte)) : List Nat :=
  Config.tPowerupMin :: (strobeGaps handshakeSettles ++ strobeGaps (cs.flatMap byteSettles))

/-- Each gap is at least the least one in its place, as far as both lists go. -/
def keepsGaps : List Nat → List Nat → Bool
  | r :: rs, g :: gs => decide (r ≤ g) && keepsGaps rs gs
  | [], _ => true
  | _ :: _, [] => true

/-! ### The checker and `Render` -/

/-- Block-conformance of a whole trace (47_display_observer.md R231): (a) to (c), and (d) for the waits it holds, up to its last bus byte; none
when the trace passes. -/
def checkTrace (tr : List Event) : Option TraceFault :=
  match readTrace tr with
  | .error e => some e
  | .ok cs =>
    if !commandsOk cs then some .neverEmitted
    else if !keepsGaps (leastGaps cs) (gaps 0 tr).dropLast then some .tooEarly
    else none

/-- `Render(trace)` from a controller in any state (47_display_observer.md R225); a trace that is not block-conformant gets a fault, not a render
(R231). -/
def render (p : Panel) (initDone : Bool) (tr : List Event) : Except TraceFault Picture :=
  match checkTrace tr with
  | some e => .error e
  | none => .ok ((p.replay tr).lcd.picture initDone)

/-- What the display shows now, or what was wrong with what the controller's side has been fed since the block's reset (47_display_observer.md
R225, R231). It is asked between operations: a feed cut inside a nibble write or a byte does not pair (log entry 33). -/
def State.display (s : State) : Except TraceFault Picture :=
  if s.bus.misfed then .error .noFrame
  else
    match checkTrace s.bus.fed with
    | some e => .error e
    | none => .ok (s.bus.panel.lcd.picture s.init)

/-! ### Timed runs (40_bus_adapter.md R104) -/

/-- A run of a trace is given by the time (µs) each `Xmit` starts. It is admitted when every interval between two `Xmit` events is at least the
sum of the waits between them; `earliest` is the first time the next one may start. -/
def admitsFrom (earliest : Nat) : List Event → List Nat → Bool
  | [], [] => true
  | [], _ :: _ => false
  | .wait t :: tr, ts => admitsFrom (earliest + t) tr ts
  | .xmit _ _ :: _, [] => false
  | .xmit _ _ :: tr, t :: ts => decide (earliest ≤ t) && admitsFrom t tr ts

/-- A run of a trace that begins at time 0 (10_state.md R38). -/
def admits (tr : List Event) (ts : List Nat) : Bool := admitsFrom 0 tr ts

/-- The run that waits no longer than it must. -/
def leastRun (earliest : Nat) : List Event → List Nat
  | [] => []
  | .wait t :: tr => leastRun (earliest + t) tr
  | .xmit _ _ :: tr => earliest :: leastRun earliest tr

/-- Block-conformance of a trace and of a run of it (47_display_observer.md R231): the trace holds at least the waits of the rules, and each
interval of the run at least those of the trace. -/
def checkRun (tr : List Event) (ts : List Nat) : Option TraceFault :=
  match checkTrace tr with
  | some e => some e
  | none => if admits tr ts then none else some .tooEarly

end Sys2Proof.Machine
end

