-- ==== Sys2Proof/Safety.lean ====
section
/-! DEFINITION. What counts as a safe run, in the terms the claims use: the states in which a call runs normally, the invariant every step keeps, and
when the display follows the block. -/

namespace Sys2Proof.Machine

/-! ### When a call runs -/

/-- No refusal is recorded and no operation is in progress: the host may call (spec 60_exceptions.md R240, R245). -/
abbrev State.callable (s : State) : Prop := s.refused = false ∧ s.seq = .idle

/-- The host may call, and INITIALIZE has completed: every operation but INITIALIZE runs (41_controller_driver.md R119, 42_scheduler.md
R159). -/
abbrev State.ready (s : State) : Prop := s.refused = false ∧ s.seq = .idle ∧ s.init = true

/-- An operation in progress under the gate value `g`, in which the block issues its internal primitives (30_encoding.md R86, 10_state.md
R37). -/
abbrev State.inside (s : State) (op k : Nat) (g : Bool) : Prop := s.refused = false ∧ s.seq = .inOp op k g

/-- The call `i`, whose op code is `op`, is refused `RF_UNINIT` before INITIALIZE has completed (60_exceptions.md R242). -/
abbrev RefusesUninit (i : Instr) (op : Nat) (s : State) : Prop :=
  s.callable → s.init = false → exec i s = .next (s.mark .uninit (some op))

/-! ### What emitting events leaves -/

/-- The last byte of a list of events that goes over the link: of its transmits with the gate open. -/
def lastOpen : List Event → Option Byte
  | [] => none
  | .xmit b true :: evs =>
    match lastOpen evs with
    | some x => some x
    | none => some b
  | .xmit _ false :: evs => lastOpen evs
  | .wait _ :: evs => lastOpen evs

/-- `b'` is the bus side `b` after the events `evs`: they stand at the end of the trace (10_state.md R38); the controller has been fed them and has
observed them (47_display_observer.md R210); `SR`, `PAR` and SDA are those of the last byte that went over the link, the clock and the latch idle, and
with no such byte no line has moved (40_bus_adapter.md R100 to R102). -/
structure Bus.After (b : Bus) (evs : List Event) (b' : Bus) : Prop where
  trace : b'.trace = b.trace ++ evs
  fed : b'.fed = b.fed ++ evs
  misfed : b'.misfed = b.misfed
  panel : b'.panel = b.panel.replay evs
  sr : b'.sr = (lastOpen evs).getD b.sr
  par : b'.par = (lastOpen evs).getD b.par
  lines : b'.lines =
    match lastOpen evs with
    | some x => ⟨x.getLsbD 7, false, true⟩
    | none => b.lines

/-- `t` is `s` after the events `evs` and nothing else: every field but the bus side is that of `s`. -/
structure State.Emits (s : State) (evs : List Event) (t : State) : Prop where
  frame : t = { s with bus := t.bus }
  bus : s.bus.After evs t.bus

/-- An event as the gate value `g` records it (40_bus_adapter.md R102). -/
def Event.gate (g : Bool) : Event → Event
  | .xmit b _ => .xmit b g
  | .wait t => .wait t

/-- `s` after the controller has taken the byte `(rs, v)` from a larger system and is `l`, with E low and the byte's high nibble the last one it
held: a byte that takes it `t` µs, of which the settle after its second nibble is over (30_encoding.md R75, 40_bus_adapter.md R103). -/
def State.byteTaken (s : State) (rs : Bool) (v : Byte) (t : Nat) (l : Lcd) : State :=
  { s with bus :=
      { s.bus with
        fed := s.bus.fed ++ sendEvents true rs v
        panel :=
          { lcd := { l with e := false, hi := hiNibble v }
            time := { busy := t - Config.tNibMin, since := Config.tNibMin, hs := if !rs && loNibble v == 0x3 then 1 else 0 } } } }

/-! ### The invariant -/

/-- A RowBuffer as 10_state.md R20 and R31 say it always is. -/
abbrev RowBuffer.ok (rb : RowBuffer) : Prop :=
  rb.content.length ≤ Config.contentMax
    ∧ (Config.cols < rb.content.length → rb.offset + Config.cols ≤ rb.content.length)
    ∧ (rb.content.length ≤ Config.cols → rb.offset = 0)
    ∧ rb.deadline < Config.timeLimit

/-- Every timestamp is below `TIME_LIMIT` (00_scope.md R11). -/
abbrev State.timesOk (s : State) : Prop := s.clkLast < Config.timeLimit ∧ s.ov.expiry < Config.timeLimit

/-- The fields only INITIALIZE writes (10_state.md R25 to R27). -/
abbrev State.layoutOk (s : State) : Prop :=
  (s.numLines = 1 ∨ s.numLines = 2)
    ∧ (s.init = true → s.rowOffsets = initRowOffsets ∧ s.numLines = 2 ∧ s.fn = functionFlags)

/-- The serial lines idle (40_bus_adapter.md R101). -/
abbrev Bus.idle (b : Bus) : Prop := b.lines.sck = false ∧ b.lines.lat = true

/-- The controller's memories are in canonical form and inside their address spaces, and its shift is a shift (47_display_observer.md
R211; 20_memory.md R51, R52). -/
abbrev Panel.ok (p : Panel) : Prop :=
  Memory.wf Memory.ddramBlank p.lcd.ddram = true ∧ (p.lcd.ddram.all fun c => decide (c.1 < 128)) = true
    ∧ Memory.wf Memory.cgramBlank p.lcd.cgram = true ∧ (p.lcd.cgram.all fun c => decide (c.1 < 64)) = true
    ∧ p.lcd.shift < 40

/-- The mark and its record go together (60_exceptions.md R240, R249). -/
abbrev State.markOk (s : State) : Prop := s.refused = s.refusal.isSome

/-- The invariant of the machine. -/
structure State.Inv (s : State) : Prop where
  row0 : s.row0.ok
  row1 : s.row1.ok
  times : s.timesOk
  layout : s.layoutOk
  mark : s.markOk
  lines : s.bus.idle
  panel : s.bus.panel.ok

/-! ### The display and the block -/

/-- The controller is at a byte boundary of 4-bit mode, with no handshake going on (47_display_observer.md R214, R215). -/
structure Panel.AtBoundary (p : Panel) : Prop where
  sync : p.lcd.sync = .sync4
  phase : p.lcd.phase = .hi
  hs : p.time.hs ≤ 1

/-- The controller is in 4-bit, two-line mode at a byte boundary, done with its last byte, and its state is determined
(47_display_observer.md R214 to R216). -/
structure Panel.Synced (p : Panel) : Prop where
  sync : p.lcd.sync = .sync4
  phase : p.lcd.phase = .hi
  lines : p.lcd.n = true
  busy : p.time.busy = 0
  hs : p.time.hs ≤ 1

/-- What a render needs to land left-justified: text from left to right, no shift (47_display_observer.md R226). -/
structure Panel.Upright (p : Panel) : Prop where
  id : p.lcd.id = true
  s : p.lcd.s = false
  shift : p.lcd.shift = 0

/-- The trace of a block: empty before INITIALIZE has completed, and afterwards one that holds a command, passes the checker, and holds the waits
after its last byte too, so that the next operation may follow at once (47_display_observer.md R231, 40_bus_adapter.md R104). -/
def State.TraceInv (s : State) : Prop :=
  if s.init then
    ∃ cs, readTrace s.bus.trace = .ok cs ∧ cs ≠ [] ∧ commandsOk cs = true ∧ keepsGaps (leastGaps cs) (gaps 0 s.bus.trace) = true
  else s.bus.trace = []

end Sys2Proof.Machine
end

