-- ==== Sys2Proof/Certificates/Slice0/Obligations.lean ====
section
/-! DEFINITION. The statements for the provers, each a proposition about the model; OBLIGATIONS.json says which rules of the spec each formalises.
A statement about the controller's state rests on the spec's reference model of it, which the spec gives from general knowledge
(47_display_observer.md, first paragraph). -/

open Sys2Proof Sys2Proof.Machine

/-! ### Reset and the step -/

/-- 70_reset_and_hazards.md R270 and R272: the reset values the spec gives, at power-on and after a firmware reset taken in any state; and a firmware
reset leaves the controller. That a firmware reset is an input and leaves the inputs not yet taken is the model's choice (log entries 2
and 22), and so is that the controller's last level of E stays whatever `PAR` becomes (log entry 32). -/
def Obligations.ResetGivesTheFieldsTheirResetValues : Prop :=
  (∀ t : State, (t = State.reset ∨ ∃ s rest, s.inbox = .firmwareReset :: rest ∧ step s = .next t) →
    t.init = false ∧ t.ctl = ⟨true, false, false⟩ ∧ t.ent = ⟨true, false⟩ ∧ t.fn = ⟨false, true, false⟩
      ∧ t.row0 = ⟨[], 0, .fwd, .none, 0⟩ ∧ t.row1 = ⟨[], 0, .fwd, .none, 0⟩ ∧ t.ov = ⟨false, 0⟩ ∧ t.clkLast = 0
      ∧ t.bus.trace = [] ∧ t.refused = false ∧ t.refusal = none ∧ t.seq = .idle)
    ∧ (∀ (s : State) (rest : List Input), s.inbox = .firmwareReset :: rest →
        ∃ t, step s = .next t ∧ t.bus.panel = s.bus.panel ∧ t.inbox = rest)

/-- A step takes the next record and runs the instruction its bytes decode to at its port, with the `OE` and the clock reading that came with
it, and adds nothing around the instruction; a host record runs only between operations. With no input the block waits and nothing
changes; a pause of the larger system is a wait the controller is fed and changes nothing else (the inputs are the model's own, log
entry 2; what the controller was fed, log entry 33). -/
def Obligations.StepRunsTheDecodedInstruction : Prop :=
  (∀ (s : State) (p : Port) (env : Env) (bytes : List Byte) (rest : List Input) (i : Instr),
    s.refused = false → s.inbox = .record p env bytes :: rest → decode p bytes = .ok (i, []) → (p = .host → s.seq = .idle) →
      step s = exec i { s with env := env, inbox := rest })
    ∧ (∀ s : State, s.inbox = [] → step s = .next s)
    ∧ (∀ (s : State) (d : Nat) (rest : List Input), s.inbox = .pause d :: rest →
        ∃ t, step s = .next t
          ∧ t = { s with inbox := rest, bus := { s.bus with panel := t.bus.panel, fed := s.bus.fed ++ [.wait d] } }
          ∧ t.bus.panel.lcd = s.bus.panel.lcd ∧ t.bus.panel.time.busy = s.bus.panel.time.busy - d
          ∧ t.bus.panel.time.since = s.bus.panel.time.since + d ∧ t.bus.panel.time.hs = s.bus.panel.time.hs)

/-- 60_exceptions.md R242 and 70_reset_and_hazards.md R271: before INITIALIZE has completed, every other host operation with operands of their
kinds is refused `RF_UNINIT` and INITIALIZE runs; afterwards INITIALIZE is refused `RF_REINIT`. -/
def Obligations.OnlyInitializeRunsFirstAndOnce : Prop :=
  ∀ s : State, s.callable →
    (∀ i : Instr, s.init = false → i.port = .host → i.wf = true → i ≠ .opInitialize →
        exec i s = .next (s.mark .uninit (recordOp (encode i))))
      ∧ (s.init = false → ∃ t, exec .opInitialize s = .next t ∧ t.init = true ∧ t.refused = false)
      ∧ (s.init = true → exec .opInitialize s = .next (s.mark .reinit (some 0x00)))

/-- 60_exceptions.md R246 and 10_state.md R21: a step from `seq = IDLE`, whatever it runs, is back at `seq = IDLE`. -/
def Obligations.EveryStepFromIdleEndsIdle : Prop :=
  ∀ s t : State, s.seq = .idle → step s = .next t → t.seq = .idle

/-! ### Encodings -/

/-- Words written out from the tables of 30_encoding.md R71, R76, R83 and R86 decode to the instructions they stand for. -/
def Obligations.SampleWordsDecode : Prop :=
  decode .bus [0b10101000] = .ok (.busByte true true 0b0100, [])
    ∧ decode .bus [0b00000110] = .ok (.busByte false false 0b0011, [])
    ∧ decode .nib [0b00011] = .ok (.handshakeNibble8bit, [])
    ∧ decode .nib [0b00010] = .ok (.handshakeNibble4bit, [])
    ∧ decode .ctl [0b00101000, 0] = .ok (.cmdFunctionSet false true false 0b00, [])
    ∧ decode .ctl [0b11000101, 0] = .ok (.cmdSetDdramAddress 0b1000101, [])
    ∧ decode .ctl [0b01011000, 0] = .ok (.cmdSetCgramAddress 0b011000, [])
    ∧ decode .ctl [0b00000110, 0] = .ok (.cmdEntryModeSet true false, [])
    ∧ decode .ctl [0b01000001, 1] = .ok (.dataWrite 0b01000001, [])
    ∧ decode .host [0x00] = .ok (.opInitialize, [])
    ∧ decode .host [0x15, 0xE8, 0x03, 0, 0, 0, 0, 0, 0] = .ok (.tick 1000, [])
    ∧ decode .seq [0x1A, 1, 0x41] = .ok (.send true 0x41, [])

/-- Decoding reads back what encoding writes, for every instruction whose operands fit their fields, in front of any further bytes. -/
def Obligations.DecodeReadsWhatEncodeWrites : Prop :=
  ∀ (i : Instr) (rest : List Byte), (i.wf = true ∨ i.fits = true) → decode i.port (encode i ++ rest) = .ok (i, rest)

/-- Below the host's records every word has one meaning: the bytes an instruction was decoded from are those it encodes to, at its own port. -/
def Obligations.LowerLevelWordsHaveOneMeaning : Prop :=
  ∀ (p : Port) (bytes rest : List Byte) (i : Instr), p ≠ .host → decode p bytes = .ok (i, rest) →
    i.port = p ∧ bytes = encode i ++ rest

/-- 30_encoding.md R71, R72, R73 and R93: the layout of a bus byte, and the 64 bytes there are: exactly those with bits 6 and 0 clear. -/
def Obligations.BusBytesHaveTheirLayout : Prop :=
  (∀ w : BusWord, (pack w).toNat = 128 * w.rs.toNat + 32 * w.e.toNat + 2 * w.n.toNat)
    ∧ (∀ w : BusWord, ∀ k, k < 4 → (pack w).getLsbD (k + 1) = w.n.getLsbD k)
    ∧ (∀ b : Byte, (∃ w, pack w = b) ↔ (b.getLsbD 6 = false ∧ b.getLsbD 0 = false))
    ∧ (∀ v w : BusWord, pack v = pack w → v = w)

/-- 30_encoding.md R77 to R82: the command bytes, as sums. -/
def Obligations.CommandBytesHaveTheirValues : Prop :=
  (∀ d c b : Bool, (ctlByte d c b).toNat = 8 + 4 * d.toNat + 2 * c.toNat + b.toNat)
    ∧ (∀ i s : Bool, (entByte i s).toNat = 4 + 2 * i.toNat + s.toNat)
    ∧ (∀ dl n f : Bool, (fnByte dl n f).toNat = 32 + 16 * dl.toNat + 8 * n.toNat + 4 * f.toNat)
    ∧ (∀ a : Nat, (ddaByte a).toNat = 128 + a % 128)
    ∧ (∀ s : Nat, s ≤ 7 → (cgaByte s).toNat = 64 + 8 * s)
    ∧ clearByte = 0x01 ∧ homeByte = 0x02
    ∧ ctlByte true false false = 0x0C ∧ entByte true false = 0x06 ∧ fnByte false true false = 0x28

/-- 30_encoding.md R76: a command byte is read by its highest set bit, so that exactly 0x00 stands for no command; the row a byte is read as has
the byte's bits, and every RS = 1 byte is data. -/
def Obligations.ControllerBytesAreReadByTheirHighestBit : Prop :=
  (∀ v : Byte, decodeController true v = .ok (.dataWrite v))
    ∧ (∀ v : Byte, decodeController false v = .error .noCommand ↔ v = 0x00)
    ∧ (∀ (v : Byte) (i : Instr), decodeController false v = .ok i →
        v.toNat &&& (i.tableRow.2 % 256) = i.tableRow.1 ∧ i.tableWord = v.toNat
          ∧ ∃ k, i.tableRow.1 = 2 ^ k ∧ 2 ^ k ≤ v.toNat ∧ v.toNat < 2 ^ (k + 1))

/-! ### The Serial Bus Adapter -/

/-- 40_bus_adapter.md R101: the levels the three lines go through for one byte, and what they leave: TRANSMIT with the gate open drives them and
nothing else, so that `SR` and `PAR` hold the byte, SDA its bit 7, SCK and LAT their idle levels. BUS_BYTE is fed by a larger system in every
state and under either level of the gate; the controller strobes exactly when its E was high and E falls (47_display_observer.md R213), and every
field of the block stays (10_state.md R20; log entries 21 and 33). A byte with bit 6 or bit 0 set, which is no row of the table, reaches the
controller in the same way, and the display is a fault right after that step (47_display_observer.md R231; log entries 29 and 33). -/
def Obligations.BusByteGoesOverTheLink : Prop :=
  (∀ b : Byte, lineSteps b =
      [⟨b.getLsbD 0, false, true⟩, ⟨b.getLsbD 0, true, true⟩, ⟨b.getLsbD 0, false, true⟩,
       ⟨b.getLsbD 1, false, true⟩, ⟨b.getLsbD 1, true, true⟩, ⟨b.getLsbD 1, false, true⟩,
       ⟨b.getLsbD 2, false, true⟩, ⟨b.getLsbD 2, true, true⟩, ⟨b.getLsbD 2, false, true⟩,
       ⟨b.getLsbD 3, false, true⟩, ⟨b.getLsbD 3, true, true⟩, ⟨b.getLsbD 3, false, true⟩,
       ⟨b.getLsbD 4, false, true⟩, ⟨b.getLsbD 4, true, true⟩, ⟨b.getLsbD 4, false, true⟩,
       ⟨b.getLsbD 5, false, true⟩, ⟨b.getLsbD 5, true, true⟩, ⟨b.getLsbD 5, false, true⟩,
       ⟨b.getLsbD 6, false, true⟩, ⟨b.getLsbD 6, true, true⟩, ⟨b.getLsbD 6, false, true⟩,
       ⟨b.getLsbD 7, false, true⟩, ⟨b.getLsbD 7, true, true⟩, ⟨b.getLsbD 7, false, true⟩,
       ⟨b.getLsbD 7, false, false⟩, ⟨b.getLsbD 7, false, true⟩])
    ∧ (∀ (s : State) (op k : Nat) (w : BusWord), s.inside op k true → ∃ t, exec (.transmit w) s = .next t
        ∧ t = { s with seq := .inOp op (k + 1) true, bus :=
            { (lineSteps (pack w)).foldl Bus.drive { s.bus with lines := { s.bus.lines with sck := false, lat := true } } with
              trace := s.bus.trace ++ [.xmit (pack w) true], fed := s.bus.fed ++ [.xmit (pack w) true] } }
        ∧ t.bus.sr = pack w ∧ t.bus.par = pack w ∧ t.bus.lines = ⟨w.rs, false, true⟩)
    ∧ (∀ (s : State) (r e : Bool) (n : Nibble), ∃ t, exec (.busByte r e n) s = .next t
        ∧ t = { s with bus := { s.bus with fed := s.bus.fed ++ [.xmit (pack ⟨r, e, n⟩) true], panel := t.bus.panel } }
        ∧ (s.bus.panel.lcd.e = true → e = false →
            t.bus.panel = Panel.strobe r n { s.bus.panel with lcd := { s.bus.panel.lcd with e := false } })
        ∧ (¬ (s.bus.panel.lcd.e = true ∧ e = false) →
            t.bus.panel = { s.bus.panel with lcd := { s.bus.panel.lcd with e := e } }))
    ∧ (∀ (s : State) (env : Env) (b : Byte) (rest : List Input), s.refused = false → s.inbox = .record .bus env [b] :: rest →
        b.getLsbD 6 = true ∨ b.getLsbD 0 = true →
          ∃ t, step s = .next t
            ∧ t = { s with env := env, inbox := rest, bus := { s.bus with fed := s.bus.fed ++ [.xmit b true], panel := s.bus.panel.see b } }
            ∧ t.display = .error (if s.bus.misfed then .noFrame else .outsideSet))

/-- 40_bus_adapter.md R100: inside an operation, under its gate value, TRANSMIT with the gate open loads `SR` and `PAR` with the byte; with the
gate closed they keep their values; the event is recorded either way. -/
def Obligations.TransmitSendsItsByte : Prop :=
  ∀ (s : State) (op k : Nat) (g : Bool) (w : BusWord), s.inside op k g →
    ∃ t, exec (.transmit w) s = .next t
      ∧ State.Emits { s with seq := .inOp op (k + 1) g } [.xmit (pack w) g] t
      ∧ t.bus.sr = (if g then pack w else s.bus.sr) ∧ t.bus.par = (if g then pack w else s.bus.par)

/-- 40_bus_adapter.md R103: NIBBLE is one Enable pulse with its two waits, and E is low after it when the gate is open. -/
def Obligations.NibbleIsOneEnablePulse : Prop :=
  ∀ (s : State) (op k : Nat) (g rs : Bool) (n : Nibble), s.inside op k g →
    ∃ t, exec (.nibble rs n) s = .next t
      ∧ State.Emits { s with seq := .inOp op (k + 4) g }
          [.xmit (pack ⟨rs, true, n⟩) g, .wait 1, .xmit (pack ⟨rs, false, n⟩) g, .wait 100] t
      ∧ (g = true → t.bus.par.getLsbD 5 = false)

/-- 40_bus_adapter.md R105 and 30_encoding.md R75: SEND is two nibble writes, the high nibble first, with the same RS. -/
def Obligations.SendIsTwoNibblesHighFirst : Prop :=
  ∀ (s : State) (op k : Nat) (g rs : Bool) (v : Byte), s.inside op k g →
    ∃ t, exec (.send rs v) s = .next t
      ∧ State.Emits { s with seq := .inOp op (k + 8) g }
          [.xmit (pack ⟨rs, true, v.extractLsb' 4 4⟩) g, .wait 1, .xmit (pack ⟨rs, false, v.extractLsb' 4 4⟩) g, .wait 100,
           .xmit (pack ⟨rs, true, v.extractLsb' 0 4⟩) g, .wait 1, .xmit (pack ⟨rs, false, v.extractLsb' 0 4⟩) g, .wait 100] t

/-- 40_bus_adapter.md R102 and 47_display_observer.md R224: of a host operation with the gate closed, no line moves, `SR`, `PAR` and the controller's
state stay, its events are all recorded as gated, and everything else is as with the gate open. -/
def Obligations.ClosedGateMovesNoLine : Prop :=
  ∀ (i : Instr) (s t : State), i.port = .host → i ≠ .opInitialize → s.env.oe = false → exec i s = .next t →
    t.bus.sr = s.bus.sr ∧ t.bus.par = s.bus.par ∧ t.bus.lines = s.bus.lines ∧ t.bus.panel.lcd = s.bus.panel.lcd
      ∧ ∃ (u : State) (evs : List Event), exec i { s with env := { s.env with oe := true } } = .next u
          ∧ u.bus.trace = s.bus.trace ++ evs.map (Event.gate true) ∧ t.bus.trace = s.bus.trace ++ evs.map (Event.gate false)
          ∧ t = { u with bus := t.bus, env := s.env }

/-- 40_bus_adapter.md R104, 10_state.md R38: the run that waits exactly the sums of the waits is admitted, and no admitted run starts any transmit
before it does. -/
def Obligations.WaitsAreLowerBounds : Prop :=
  (∀ tr : List Event, admits tr (leastRun 0 tr) = true)
    ∧ (∀ (tr : List Event) (ts : List Nat), admits tr ts = true →
        ts.length = (xmitBytes tr).length ∧ ∀ k, k < ts.length → (leastRun 0 tr)[k]?.getD 0 ≤ ts[k]?.getD 0)

/-- 70_reset_and_hazards.md R287 and 40_bus_adapter.md R107: the least durations, in µs, of the block's event sequences, and how many bytes each sends;
texts of an overlay count at most 16 bytes each, and rendered rows hold the RowBuffer invariant. -/
def Obligations.LeastDurationsAndCounts : Prop :=
  (∀ g rs n, waitSum (nibbleEvents g rs n) = 101 ∧ (xmitBytes (nibbleEvents g rs n)).length = 2)
    ∧ (∀ g rs v, waitSum (sendEvents g rs v) = 202 ∧ (xmitBytes (sendEvents g rs v)).length = 4
        ∧ ((xmitBytes (sendEvents g rs v)).filter (fun b => b.getLsbD 5)).length = 2)
    ∧ (∀ g v, waitSum (cmdSlowEvents g v) = 2202)
    ∧ (waitSum initEvents = 51562 ∧ (xmitBytes initEvents).length = 24)
    ∧ (∀ g slot bitmap, bitmap.length = 8 →
        waitSum (cmdEvents g (cgaByte slot) ++ textEvents g bitmap) = 1818)
    ∧ (∀ (s : State) g r, (s.row r).ok →
        waitSum (s.renderEvents g r) = 3434 ∧ (xmitBytes (s.renderEvents g r)).length = 68)
    ∧ (∀ (s : State) g t0 t1,
        waitSum (s.overlayEvents g t0 t1) = 2202 + 202 * (2 + min t0.length 16 + min t1.length 16))

/-! ### The Controller Protocol Driver -/

/-- 41_controller_driver.md R120: INITIALIZE, whatever the controller's state and the level of `OE`. -/
def Obligations.InitializeRunsTheHandshake : Prop :=
  ∀ s : State,
    (s.refused = true → exec .opInitialize s = .fault .runEnded)
      ∧ (s.callable → s.init = true → exec .opInitialize s = .next (s.mark .reinit (some 0x00)))
      ∧ (s.callable → s.init = false → ∃ t, exec .opInitialize s = .next t
          ∧ State.Emits
              { s with rowOffsets := ⟨0x00, 0x40, 0x10, 0x50⟩, numLines := 2, fn := ⟨false, true, false⟩,
                       ctl := ⟨true, false, false⟩, ent := ⟨true, false⟩, init := true }
              ([.wait 40000] ++ nibbleEvents true false 0x3 ++ [.wait 4100] ++ nibbleEvents true false 0x3 ++ [.wait 4100]
                ++ nibbleEvents true false 0x3 ++ [.wait 150] ++ nibbleEvents true false 0x2
                ++ sendEvents true false 0x28 ++ sendEvents true false 0x0C
                ++ sendEvents true false 0x01 ++ [.wait 2000] ++ sendEvents true false 0x06) t)
      ∧ xmitBytes initEvents =
          [0x26, 0x06, 0x26, 0x06, 0x26, 0x06, 0x24, 0x04, 0x24, 0x04, 0x30, 0x10, 0x20, 0x00, 0x38, 0x18,
           0x20, 0x00, 0x22, 0x02, 0x20, 0x00, 0x2C, 0x0C]

/-- 47_display_observer.md R214, 70_reset_and_hazards.md R277: the four handshake nibbles, with at least their waits, bring the controller to a byte
boundary of 4-bit mode from any state whatever, with `undef` cleared; where one of the three gaps (the settle of a nibble write, the wait
and the strobe) is shorter than its least wait, its state is undetermined. How the handshake is recognised is log entry 14. -/
def Obligations.HandshakeWorksFromAnyController : Prop :=
  ∀ (p : Panel) (w0 w1 w2 : Nat) (q : Panel),
    q = p.replay (nibbleEvents true false 0x3 ++ [.wait w0] ++ nibbleEvents true false 0x3 ++ [.wait w1]
        ++ nibbleEvents true false 0x3 ++ [.wait w2] ++ nibbleEvents true false 0x2) →
      (4100 ≤ w0 → 4100 ≤ w1 → 150 ≤ w2 →
          q.lcd.sync = .sync4 ∧ q.lcd.phase = .hi ∧ q.lcd.dl = false ∧ q.lcd.undef = false)
        ∧ (100 + w0 + 1 < 4100 ∨ 100 + w1 + 1 < 4100 ∨ 100 + w2 + 1 < 150 → q.lcd.undef = true)

/-- 70_reset_and_hazards.md R274: what INITIALIZE leaves, from any controller: the block's fields, E low, the Scheduler's state as it was, and on the
controller blank DDRAM, `AC` 0, its flags and no shift. -/
def Obligations.InitializeDeterminesTheController : Prop :=
  ∀ s : State, s.callable → s.init = false → ∃ t, exec .opInitialize s = .next t
    ∧ t.init = true ∧ t.rowOffsets = ⟨0x00, 0x40, 0x10, 0x50⟩ ∧ t.numLines = 2
    ∧ t.ctl = ⟨true, false, false⟩ ∧ t.ent = ⟨true, false⟩ ∧ t.fn = ⟨false, true, false⟩ ∧ t.bus.par.getLsbD 5 = false
    ∧ t.row0 = s.row0 ∧ t.row1 = s.row1 ∧ t.ov = s.ov ∧ t.clkLast = s.clkLast
    ∧ (∀ a, Memory.read Memory.ddramBlank t.bus.panel.lcd.ddram a = 0x20) ∧ t.bus.panel.lcd.ac = 0
    ∧ t.bus.panel.lcd.tgt = .ddram ∧ t.bus.panel.lcd.undef = false ∧ t.bus.panel.lcd.d = true ∧ t.bus.panel.lcd.c = false
    ∧ t.bus.panel.lcd.b = false ∧ t.bus.panel.Synced ∧ t.bus.panel.Upright
    ∧ t.bus.panel.lcd.picture t.init = .rows (List.replicate 16 0x20) (List.replicate 16 0x20)

/-- 41_controller_driver.md R122, R123: CLEAR and HOME send their byte and then settle; nothing else changes. -/
def Obligations.ClearAndHomeSendTheirByte : Prop :=
  ∀ s : State,
    (s.ready → ∃ t, exec .clear s = .next t ∧ s.Emits (sendEvents s.env.oe false 0x01 ++ [.wait 2000]) t)
      ∧ (s.ready → ∃ t, exec .home s = .next t ∧ s.Emits (sendEvents s.env.oe false 0x02 ++ [.wait 2000]) t)
      ∧ RefusesUninit .clear 0x01 s ∧ RefusesUninit .home 0x02 s

/-- 41_controller_driver.md R124, R137: SET_CURSOR sends one set-DDRAM-address command: the row is clamped, the column is not, and the address is
taken mod 128. With the layout INITIALIZE sets, row 0 starts at 0 and every other row at 0x40. -/
def Obligations.SetCursorSendsItsAddress : Prop :=
  ∀ (s : State) (col row : Nat),
    (s.ready → col < 256 → row < 256 → ∃ t, exec (.setCursor col row) s = .next t
        ∧ s.Emits (sendEvents s.env.oe false
            (0x80 ||| BitVec.ofNat 8 (col + (s.rowOffsets.at (min row (s.numLines - 1))).toNat))) t
        ∧ (s.layoutOk → ∃ v : Byte, t.bus.trace = s.bus.trace ++ sendEvents s.env.oe false v
            ∧ v.toNat = 128 + (col + if row = 0 then 0 else 64) % 128))
      ∧ (col < 256 → row < 256 → RefusesUninit (.setCursor col row) 0x03 s)
      ∧ (s.callable → 256 ≤ col ∨ 256 ≤ row → exec (.setCursor col row) s = .next (s.mark .argRange (some 0x03)))

/-- 41_controller_driver.md R126 to R130: each of these writes one control flag and then sends all three. -/
def Obligations.ControlFlagOpsSendTheGroup : Prop :=
  ∀ (s : State) (v : Nat),
    (s.ready → ∃ t, exec .displayOn s = .next t
        ∧ State.Emits { s with ctl := { s.ctl with d := true } } (sendEvents s.env.oe false (ctlByte true s.ctl.c s.ctl.b)) t)
      ∧ (s.ready → ∃ t, exec .displayOff s = .next t
        ∧ State.Emits { s with ctl := { s.ctl with d := false } } (sendEvents s.env.oe false (ctlByte false s.ctl.c s.ctl.b)) t)
      ∧ (s.ready → v < 2 → ∃ t, exec (.setCursorVisible v) s = .next t
        ∧ State.Emits { s with ctl := { s.ctl with c := v == 1 } } (sendEvents s.env.oe false (ctlByte s.ctl.d (v == 1) s.ctl.b)) t)
      ∧ (s.ready → ∃ t, exec .blinkOn s = .next t
        ∧ State.Emits { s with ctl := { s.ctl with b := true } } (sendEvents s.env.oe false (ctlByte s.ctl.d s.ctl.c true)) t)
      ∧ (s.ready → ∃ t, exec .blinkOff s = .next t
        ∧ State.Emits { s with ctl := { s.ctl with b := false } } (sendEvents s.env.oe false (ctlByte s.ctl.d s.ctl.c false)) t)
      ∧ RefusesUninit .displayOn 0x04 s ∧ RefusesUninit .displayOff 0x05 s ∧ RefusesUninit .blinkOn 0x07 s
      ∧ RefusesUninit .blinkOff 0x08 s ∧ (v < 2 → RefusesUninit (.setCursorVisible v) 0x06 s)
      ∧ (s.callable → 2 ≤ v → exec (.setCursorVisible v) s = .next (s.mark .argRange (some 0x06)))

/-- 41_controller_driver.md R131, R132: each of these writes one entry-mode flag and then sends both. -/
def Obligations.EntryFlagOpsSendTheGroup : Prop :=
  ∀ (s : State) (v : Nat),
    (s.ready → v < 2 → ∃ t, exec (.setScrollDirection v) s = .next t
        ∧ State.Emits { s with ent := { s.ent with id := v == 1 } } (sendEvents s.env.oe false (entByte (v == 1) s.ent.s)) t)
      ∧ (s.ready → v < 2 → ∃ t, exec (.setAutoscroll v) s = .next t
        ∧ State.Emits { s with ent := { s.ent with s := v == 1 } } (sendEvents s.env.oe false (entByte s.ent.id (v == 1))) t)
      ∧ (v < 2 → RefusesUninit (.setScrollDirection v) 0x09 s ∧ RefusesUninit (.setAutoscroll v) 0x0A s)
      ∧ (s.callable → 2 ≤ v → exec (.setScrollDirection v) s = .next (s.mark .argRange (some 0x09))
          ∧ exec (.setAutoscroll v) s = .next (s.mark .argRange (some 0x0A)))

/-- 41_controller_driver.md R133: WRITE_GLYPH sends its byte as data, unchanged. -/
def Obligations.WriteGlyphSendsItsByte : Prop :=
  ∀ (s : State) (b : Nat),
    (s.ready → b < 256 → ∃ t, exec (.writeGlyph b) s = .next t ∧ s.Emits (sendEvents s.env.oe true (BitVec.ofNat 8 b)) t)
      ∧ (b < 256 → RefusesUninit (.writeGlyph b) 0x0B s)
      ∧ (s.callable → 256 ≤ b → exec (.writeGlyph b) s = .next (s.mark .argRange (some 0x0B)))

/-- 41_controller_driver.md R134: DEFINE_GLYPH sends the address of the clamped slot and then the eight bytes, unmasked; a bitmap of another length or
with a number that is no byte is refused (30_encoding.md R87, R88). -/
def Obligations.DefineGlyphSendsItsBitmap : Prop :=
  ∀ (s : State) (slot : Nat) (b0 b1 b2 b3 b4 b5 b6 b7 : Byte),
    (s.ready → slot < 256 → ∃ t, exec (.defineGlyph slot ([b0, b1, b2, b3, b4, b5, b6, b7].map BitVec.toNat)) s = .next t
        ∧ s.Emits (sendEvents s.env.oe false (BitVec.ofNat 8 (0x40 + 8 * min slot 7))
            ++ sendEvents s.env.oe true b0 ++ sendEvents s.env.oe true b1 ++ sendEvents s.env.oe true b2
            ++ sendEvents s.env.oe true b3 ++ sendEvents s.env.oe true b4 ++ sendEvents s.env.oe true b5
            ++ sendEvents s.env.oe true b6 ++ sendEvents s.env.oe true b7) t)
      ∧ (slot < 256 → RefusesUninit (.defineGlyph slot ([b0, b1, b2, b3, b4, b5, b6, b7].map BitVec.toNat)) 0x0C s)
      ∧ (∀ bitmap : List Nat, s.callable → slot < 256 → (∀ b ∈ bitmap, b < 256) → bitmap.length ≠ 8 →
          exec (.defineGlyph slot bitmap) s = .next (s.mark .bitmapLen (some 0x0C)))
      ∧ (∀ bitmap : List Nat, s.callable → slot < 256 → bitmap.length = 8 → (∃ b ∈ bitmap, 256 ≤ b) →
          exec (.defineGlyph slot bitmap) s = .next (s.mark .argRange (some 0x0C)))

/-- 41_controller_driver.md R136, with 10_state.md R23, R24 and R27: which operations write the Driver's fields; what the five byte operations leave;
and that no driver operation writes a RowBuffer, OverlayState or the clock. -/
def Obligations.DriverFieldsHaveTheirWriters : Prop :=
  ∀ (i : Instr) (s t : State), exec i s = .next t →
    (t.ctl ≠ s.ctl → i ∈ [.opInitialize, .displayOn, .displayOff, .setCursorVisible 0, .setCursorVisible 1, .blinkOn, .blinkOff])
      ∧ (t.ent ≠ s.ent → i ∈ [.opInitialize, .setScrollDirection 0, .setScrollDirection 1, .setAutoscroll 0, .setAutoscroll 1])
      ∧ (i ≠ .opInitialize → t.fn = s.fn ∧ t.rowOffsets = s.rowOffsets ∧ t.numLines = s.numLines ∧ t.init = s.init)
      ∧ (i ∈ [.clear, .home] ∨ (∃ c r, i = .setCursor c r) ∨ (∃ b, i = .writeGlyph b) ∨ (∃ k m, i = .defineGlyph k m) →
          t = { s with bus := t.bus, refused := t.refused, refusal := t.refusal })
      ∧ ((∃ op, recordOp (encode i) = some op ∧ op ≤ 0x0C) → i.port = .host →
          t.row0 = s.row0 ∧ t.row1 = s.row1 ∧ t.ov = s.ov ∧ t.clkLast = s.clkLast)

/-- 10_state.md R29: a flag changes only together with the command that sends its whole group, with no other bus event in the operation (INITIALIZE
apart, which sends every group in one sequence). -/
def Obligations.AFlagChangeSendsItsGroup : Prop :=
  ∀ (i : Instr) (s t : State), exec i s = .next t → i ≠ .opInitialize →
    (t.ctl ≠ s.ctl → t.bus.trace = s.bus.trace ++ sendEvents s.env.oe false (ctlByte t.ctl.d t.ctl.c t.ctl.b))
      ∧ (t.ent ≠ s.ent → t.bus.trace = s.bus.trace ++ sendEvents s.env.oe false (entByte t.ent.id t.ent.s))

/-- What the driver's operations make of the controller's memories, with the gate open and the controller at a byte boundary: every cell of DDRAM
and CGRAM reads as before, but for what CLEAR blanks and the one cell WRITE_GLYPH stores to, which is where `AC` points; and the flags
follow the block's (10_state.md R29; 47_display_observer.md R217, R218). -/
def Obligations.DriverOpsOnTheControllerMemory : Prop :=
  ∀ (i : Instr) (s t : State), s.ready → s.env.oe = true → i.wf = true → s.bus.panel.Synced → s.bus.panel.ok →
    exec i s = .next t →
    (i ∈ [.displayOn, .displayOff, .setCursorVisible 0, .setCursorVisible 1, .blinkOn, .blinkOff] →
        t.bus.panel.lcd.ddram = s.bus.panel.lcd.ddram ∧ t.bus.panel.lcd.cgram = s.bus.panel.lcd.cgram
          ∧ t.bus.panel.lcd.d = t.ctl.d ∧ t.bus.panel.lcd.c = t.ctl.c ∧ t.bus.panel.lcd.b = t.ctl.b)
      ∧ (i ∈ [.setScrollDirection 0, .setScrollDirection 1, .setAutoscroll 0, .setAutoscroll 1] →
        t.bus.panel.lcd.ddram = s.bus.panel.lcd.ddram ∧ t.bus.panel.lcd.cgram = s.bus.panel.lcd.cgram
          ∧ t.bus.panel.lcd.id = t.ent.id ∧ t.bus.panel.lcd.s = t.ent.s)
      ∧ (i = .home ∨ (∃ c r, i = .setCursor c r) →
        t.bus.panel.lcd.ddram = s.bus.panel.lcd.ddram ∧ t.bus.panel.lcd.cgram = s.bus.panel.lcd.cgram)
      ∧ (i = .clear → (∀ a, Memory.read Memory.ddramBlank t.bus.panel.lcd.ddram a = 0x20)
          ∧ t.bus.panel.lcd.cgram = s.bus.panel.lcd.cgram)
      ∧ (∀ b, i = .writeGlyph b → s.bus.panel.lcd.tgt = .ddram →
          (∀ a, Memory.read Memory.ddramBlank t.bus.panel.lcd.ddram a =
            if a = s.bus.panel.lcd.ac.toNat then BitVec.ofNat 8 b else Memory.read Memory.ddramBlank s.bus.panel.lcd.ddram a)
          ∧ t.bus.panel.lcd.cgram = s.bus.panel.lcd.cgram)

/-- 20_memory.md R52, 41_controller_driver.md R134, 47_display_observer.md R228: with the gate open and text from left to right, DEFINE_GLYPH leaves the
low five bits of its bytes in the eight CGRAM rows of the clamped slot, every other CGRAM row and all of DDRAM as before, and the
controller's address counter in CGRAM. -/
def Obligations.DefineGlyphFillsItsSlot : Prop :=
  ∀ (s t : State) (slot : Nat) (bitmap : List Nat), s.ready → s.env.oe = true → slot < 256 → bitmap.length = 8 →
    (∀ b ∈ bitmap, b < 256) → s.bus.panel.Synced → s.bus.panel.ok → s.bus.panel.lcd.id = true → exec (.defineGlyph slot bitmap) s = .next t →
    (∀ a, Memory.read Memory.cgramBlank t.bus.panel.lcd.cgram a =
        if 8 * min slot 7 ≤ a ∧ a < 8 * min slot 7 + 8 then BitVec.ofNat 5 (bitmap[a - 8 * min slot 7]?.getD 0)
        else Memory.read Memory.cgramBlank s.bus.panel.lcd.cgram a)
      ∧ t.bus.panel.lcd.ddram = s.bus.panel.lcd.ddram ∧ t.bus.panel.lcd.tgt = .cgram

/-! ### The Overlay/Scroll Scheduler -/

/-- 42_scheduler.md R163: a window is exactly 16 bytes: those from the offset on of a long text, or the whole text and then spaces. -/
def Obligations.WindowIsSixteenBytes : Prop :=
  ∀ rb : RowBuffer, rb.ok →
    rb.window.length = 16
      ∧ (16 < rb.content.length → ∀ i, i < 16 → rb.window[i]? = rb.content[rb.offset + i]?)
      ∧ (rb.content.length ≤ 16 → ∀ i, i < 16 → rb.window[i]? = some (rb.content[i]?.getD 0x20))

/-- 42_scheduler.md R162: RENDER_ROW sends the row's base address and the 16 bytes of the window, in order; no RowBuffer is written. -/
def Obligations.RenderRowSendsTheWindow : Prop :=
  ∀ (s : State) (op k : Nat) (g : Bool) (r : RowIx), s.inside op k g → (s.row r).ok →
    ∃ t w, exec (.renderRow r) s = .next t ∧ w = (s.row r).window ∧ w.length = 16
      ∧ State.Emits { s with seq := .inOp op (k + 8 * 17) g }
          (sendEvents g false (0x80 ||| (match r with | .row0 => s.rowOffsets.o0 | .row1 => s.rowOffsets.o1))
            ++ w.flatMap (sendEvents g true)) t

/-- 47_display_observer.md R226: with the gate open and the controller at a byte boundary, text from left to right and no shift, RENDER_ROW leaves
the 16 visible cells of its row equal to the window, every DDRAM cell outside those 16 and all of CGRAM as before, and the controller as
upright as it was. -/
def Obligations.RenderShowsTheWindow : Prop :=
  ∀ (s t : State) (op k : Nat) (r : RowIx), s.inside op k true → s.Inv → s.init = true → s.bus.panel.Synced → s.bus.panel.Upright →
    exec (.renderRow r) s = .next t →
    t.bus.panel.lcd.visible r = (s.row r).window
      ∧ (∀ a, ¬ (rowBase r ≤ a ∧ a < rowBase r + 16) →
          Memory.read Memory.ddramBlank t.bus.panel.lcd.ddram a = Memory.read Memory.ddramBlank s.bus.panel.lcd.ddram a)
      ∧ t.bus.panel.lcd.cgram = s.bus.panel.lcd.cgram ∧ t.bus.panel.lcd.undef = s.bus.panel.lcd.undef
      ∧ t.bus.panel.Synced ∧ t.bus.panel.Upright

/-- 42_scheduler.md R164: SET_BACKGROUND on the clamped row: content cut to 64 bytes, offset 0, forward, mode and deadline kept; rendered at once
while no overlay is active, and no bus event while one is. -/
def Obligations.SetBackgroundWritesItsRow : Prop :=
  ∀ (s : State) (row : Nat) (text : Text) (r : RowIx), r = (if row = 0 then RowIx.row0 else RowIx.row1) →
    (s.ready → row < 256 → Text.wf text = true →
      ∃ t u, exec (.setBackground row text) s = .next t
        ∧ u = s.setRow r { content := text.take 64, offset := 0, dir := .fwd, mode := (s.row r).mode, deadline := (s.row r).deadline }
        ∧ (s.ov.active = true → t = u) ∧ (s.ov.active = false → u.Emits (u.renderEvents s.env.oe r) t))
      ∧ (row < 256 → Text.wf text = true → RefusesUninit (.setBackground row text) 0x12 s)
      ∧ (s.callable → 256 ≤ row → exec (.setBackground row text) s = .next (s.mark .argRange (some 0x12)))
      ∧ (s.callable → row < 256 → Text.wf text = false → exec (.setBackground row text) s = .next (s.mark .nulText (some 0x12)))

/-- 42_scheduler.md R165: SET_BACKGROUND_ROWS is SET_BACKGROUND of row 0 and then of row 1, under one gate sample; a 0x00 in either text refuses the
whole operation. -/
def Obligations.SetBackgroundRowsIsBothRows : Prop :=
  ∀ (s : State) (upper lower : Text),
    (s.ready → Text.wf upper = true → Text.wf lower = true →
      ∃ t u, exec (.setBackground 0 upper) s = .next u ∧ exec (.setBackground 1 lower) u = .next t
        ∧ exec (.setBackgroundRows upper lower) s = .next t
        ∧ t.row0 = { s.row0 with content := upper.take 64, offset := 0, dir := .fwd }
        ∧ t.row1 = { s.row1 with content := lower.take 64, offset := 0, dir := .fwd }
        ∧ t = { s with row0 := t.row0, row1 := t.row1, bus := t.bus })
      ∧ (Text.wf upper = true → Text.wf lower = true → RefusesUninit (.setBackgroundRows upper lower) 0x13 s)
      ∧ (s.callable → ¬ (Text.wf upper = true ∧ Text.wf lower = true) →
          exec (.setBackgroundRows upper lower) s = .next (s.mark .nulText (some 0x13)))

/-- 42_scheduler.md R166: SET_ANIMATION_MODE writes the mode of the clamped row and nothing else. -/
def Obligations.SetAnimationModeWritesTheMode : Prop :=
  ∀ (s : State) (row mode : Nat),
    (s.ready → row < 256 → mode < 3 → exec (.setAnimationMode row mode) s = .next
        (if row = 0 then { s with row0 := { s.row0 with mode := [Mode.none, .bounce, .loop][mode]?.getD .none } }
         else { s with row1 := { s.row1 with mode := [Mode.none, .bounce, .loop][mode]?.getD .none } }))
      ∧ (row < 256 → mode < 3 → RefusesUninit (.setAnimationMode row mode) 0x14 s)
      ∧ (s.callable → 256 ≤ row ∨ 3 ≤ mode → exec (.setAnimationMode row mode) s = .next (s.mark .argRange (some 0x14)))

/-- 42_scheduler.md R167, R176 and R161: SHOW_OVERLAY at the clock value it draws, which is the call's reading, or `clk.last` where that is later
(the draw is the model's choice within R36's bounds, log entry 3); a deadline out of range is refused. -/
def Obligations.ShowOverlayWritesTheOverlay : Prop :=
  ∀ (s : State) (t0 t1 : Text) (dur now : Nat), now = max s.clkLast s.env.clock.toNat →
    (s.ready → Text.wf t0 = true → Text.wf t1 = true → dur < 2 ^ 32 → now + dur < 2 ^ 32 →
      ∃ t, exec (.showOverlay t0 t1 dur) s = .next t
        ∧ State.Emits { s with clkLast := now, ov := ⟨true, now + dur⟩ }
            (sendEvents s.env.oe false 0x01 ++ [.wait 2000]
              ++ sendEvents s.env.oe false (0x80 ||| s.rowOffsets.o0) ++ (t0.take 16).flatMap (sendEvents s.env.oe true)
              ++ sendEvents s.env.oe false (0x80 ||| s.rowOffsets.o1) ++ (t1.take 16).flatMap (sendEvents s.env.oe true)) t)
      ∧ (s.ready → Text.wf t0 = true → Text.wf t1 = true → dur < 2 ^ 32 → 2 ^ 32 ≤ now + dur →
          exec (.showOverlay t0 t1 dur) s = .next (s.mark .timeRange (some 0x10)))
      ∧ (Text.wf t0 = true → Text.wf t1 = true → dur < 2 ^ 32 → RefusesUninit (.showOverlay t0 t1 dur) 0x10 s)
      ∧ (s.callable → ¬ (Text.wf t0 = true ∧ Text.wf t1 = true) →
          exec (.showOverlay t0 t1 dur) s = .next (s.mark .nulText (some 0x10)))

/-- 42_scheduler.md R168: PRINT is SET_BACKGROUND of row 0 with timeout 0, and else SHOW_OVERLAY with an empty second row; only the op code a refusal
records is PRINT's own. -/
def Obligations.PrintIsBackgroundOrOverlay : Prop :=
  ∀ (s : State) (text : Text) (ms : Nat), s.refused = false → s.refusal = none →
    (ms = 0 → ∃ t u, exec (.print text ms) s = .next t ∧ exec (.setBackground 0 text) s = .next u
        ∧ t = { u with refusal := u.refusal.map fun r => { r with op := some 0x11 } })
      ∧ (ms ≠ 0 → ∃ t u, exec (.print text ms) s = .next t ∧ exec (.showOverlay text [] ms) s = .next u
        ∧ t = { u with refusal := u.refusal.map fun r => { r with op := some 0x11 } })
      ∧ (s.ready → Text.wf text = true → ms < 2 ^ 32 → ms = 0 ∨ s.readClock + ms < 2 ^ 32 →
          ∃ t, exec (.print text ms) s = .next t ∧ t.refused = false
            ∧ (ms = 0 → t.row0 = { s.row0 with content := text.take 64, offset := 0, dir := .fwd } ∧ t.ov = s.ov)
            ∧ (ms ≠ 0 → t.row0 = s.row0 ∧ t.ov = ⟨true, t.clkLast + ms⟩))

/-- 47_display_observer.md R227: after SHOW_OVERLAY with the gate open, each row shows its text cut to 16 bytes and then spaces, and all of CGRAM is
as before. The premise `S = 0` leaves out the hazard of 47_display_observer.md R229. -/
def Obligations.OverlayShowsItsTexts : Prop :=
  ∀ (s t : State) (t0 t1 : Text) (dur : Nat), s.ready → s.Inv → s.env.oe = true → s.bus.panel.Synced → s.bus.panel.lcd.s = false →
    exec (.showOverlay t0 t1 dur) s = .next t → t.refused = false →
    t.bus.panel.lcd.visible .row0 = t0.take 16 ++ List.replicate (16 - t0.length) 0x20
      ∧ t.bus.panel.lcd.visible .row1 = t1.take 16 ++ List.replicate (16 - t1.length) 0x20
      ∧ t.bus.panel.lcd.cgram = s.bus.panel.lcd.cgram ∧ t.bus.panel.lcd.undef = s.bus.panel.lcd.undef
      ∧ t.bus.panel.Synced ∧ t.bus.panel.Upright

/-- 42_scheduler.md R171 and R177: a tick at which no overlay expires and no row steps emits no event and writes the clock alone; while an overlay is
active no row steps, whether or not it expires. -/
def Obligations.TickWithNothingDue : Prop :=
  ∀ (s : State) (now : Nat), s.ready → now + 450 < 2 ^ 32 → s.clkLast ≤ now →
    ((s.ov.active = true → now < s.ov.expiry) →
      (s.ov.active = false → ∀ r, (s.row r).mode = .none ∨ (s.row r).content.length ≤ 16 ∨ now < (s.row r).deadline) →
        exec (.tick now) s = .next { s with clkLast := now })
      ∧ (s.ov.active = true → ∃ t, exec (.tick now) s = .next t ∧ t.row0 = s.row0 ∧ t.row1 = s.row1)

/-- 42_scheduler.md R170: a tick at or after the expiry clears, renders both rows at their offsets, and writes no RowBuffer; one before it
does not restore. -/
def Obligations.TickExpiresTheOverlay : Prop :=
  ∀ (s : State) (now : Nat), s.ready → now + 450 < 2 ^ 32 → s.clkLast ≤ now → s.ov.active = true →
    (s.ov.expiry ≤ now → ∃ t, exec (.tick now) s = .next t
      ∧ State.Emits { s with clkLast := now, ov := ⟨false, s.ov.expiry⟩ }
          (sendEvents s.env.oe false 0x01 ++ [.wait 2000] ++ s.renderEvents s.env.oe .row0 ++ s.renderEvents s.env.oe .row1) t)
      ∧ (now < s.ov.expiry → exec (.tick now) s = .next { s with clkLast := now })

/-- 42_scheduler.md R169, R172, R175 and 60_exceptions.md R251: with no overlay active, a tick steps and renders the rows that are eligible, row 0 first,
each once, and sets their deadlines; the other row stays. -/
def Obligations.TickStepsTheEligibleRows : Prop :=
  ∀ (s : State) (now : Nat) (due : RowIx → Bool) (after : RowIx → RowBuffer), s.ready → now + 450 < 2 ^ 32 → s.clkLast ≤ now →
    s.ov.active = false →
    (∀ r, due r = true ↔ (s.row r).mode ≠ .none ∧ 16 < (s.row r).content.length ∧ (s.row r).deadline ≤ now) →
    (∀ r, after r = if due r then { (s.row r).step with deadline := now + 450 } else s.row r) →
    ∃ t u, exec (.tick now) s = .next t ∧ u = { s with clkLast := now, row0 := after .row0, row1 := after .row1 }
      ∧ u.Emits ((if due .row0 then u.renderEvents s.env.oe .row0 else [])
          ++ (if due .row1 then u.renderEvents s.env.oe .row1 else [])) t

/-- 42_scheduler.md R170 and 10_state.md R35: after an expiry with the gate open, both rows show the current windows. The premise `S = 0` leaves out
the hazard of 47_display_observer.md R229. -/
def Obligations.ExpiryRestoresTheWindows : Prop :=
  ∀ (s t : State) (now : Nat), s.ready → s.Inv → s.env.oe = true → s.bus.panel.Synced → s.bus.panel.lcd.s = false →
    s.ov.active = true → s.ov.expiry ≤ now → exec (.tick now) s = .next t → t.refused = false →
    t.ov.active = false ∧ t.bus.panel.lcd.visible .row0 = t.row0.window ∧ t.bus.panel.lcd.visible .row1 = t.row1.window
      ∧ t.bus.panel.Synced ∧ t.bus.panel.Upright

/-- 42_scheduler.md R173: STEP_ROW under BOUNCE, by the end it is at; of the row only the offset and the direction change, and of the state only
that row. -/
def Obligations.StepRowBounces : Prop :=
  ∀ (s : State) (op k : Nat) (g : Bool) (r : RowIx) (m : Nat), s.inside op k g → (s.row r).mode = .bounce →
    16 < (s.row r).content.length → m = (s.row r).content.length - 16 → (s.row r).offset ≤ m →
    ∃ o d, exec (.stepRow r) s = .next (s.setRow r { s.row r with offset := o, dir := d })
      ∧ ((s.row r).offset = m → o = m - 1)
      ∧ ((s.row r).offset = 0 → o = 1)
      ∧ (0 < (s.row r).offset → (s.row r).offset < m → (s.row r).dir = .fwd → o = (s.row r).offset + 1)
      ∧ (0 < (s.row r).offset → (s.row r).offset < m → (s.row r).dir = .bwd → o = (s.row r).offset - 1)
      ∧ (o = m → d = .bwd) ∧ (o = 0 → d = .fwd)
      ∧ (0 < o → o < m → (s.row r).offset < o → d = .fwd) ∧ (0 < o → o < m → o < (s.row r).offset → d = .bwd)

/-- 42_scheduler.md R174: STEP_ROW under LOOP; and a row it never steps (mode NONE, or at most 16 bytes) stays (the model's reading of an internal
primitive on such a row, log entry 20). -/
def Obligations.StepRowLoops : Prop :=
  ∀ (s : State) (op k : Nat) (g : Bool) (r : RowIx), s.inside op k g →
    ((s.row r).mode = .loop → 16 < (s.row r).content.length →
      exec (.stepRow r) s = .next (s.setRow r
        { s.row r with dir := .fwd,
                       offset := if (s.row r).content.length - 16 ≤ (s.row r).offset then 0 else (s.row r).offset + 1 }))
      ∧ ((s.row r).mode = .none ∨ (s.row r).content.length ≤ 16 → exec (.stepRow r) s = .next s)

/-- 42_scheduler.md R179 (1) and (2): the offsets of repeated steps from offset 0: under BOUNCE a triangle wave between 0 and `L − 16`, under LOOP a
sawtooth. -/
def Obligations.RepeatedStepsBounceAndLoop : Prop :=
  ∀ (rb : RowBuffer) (n m : Nat), 16 < rb.content.length → m = rb.content.length - 16 → rb.offset = 0 → rb.dir = .fwd →
    (rb.mode = .bounce →
        (RowBuffer.step^[n] rb).offset = if n % (2 * m) ≤ m then n % (2 * m) else 2 * m - n % (2 * m))
      ∧ (rb.mode = .loop → (RowBuffer.step^[n] rb).offset = n % (m + 1))

/-- Read from 10_state.md R33, R34, R36 and 42_scheduler.md R166: which operations write the Scheduler's deadlines, modes and overlay and `clk.last`,
and that `clk.last` never goes back. Of R33 it says less than the rule: that only a TICK writes a deadline, not which part of it. -/
def Obligations.SchedulerFieldsHaveTheirWriters : Prop :=
  ∀ (i : Instr) (s t : State), exec i s = .next t →
    ((∀ r, (t.row r).deadline = (s.row r).deadline) ∨ ∃ now, i = .tick now)
      ∧ ((∀ r, (t.row r).mode = (s.row r).mode) ∨ ∃ row mode, i = .setAnimationMode row mode)
      ∧ (s.ov.active = false → t.ov.active = true →
          (∃ t0 t1 dur, i = .showOverlay t0 t1 dur) ∨ ∃ text ms, i = .print text ms ∧ ms ≠ 0)
      ∧ (s.ov.active = true → t.ov.active = false → ∃ now, i = .tick now)
      ∧ s.clkLast ≤ t.clkLast
      ∧ (t.clkLast ≠ s.clkLast → (∃ now, i = .tick now ∧ t.clkLast = now)
          ∨ (∃ t0 t1 dur, i = .showOverlay t0 t1 dur) ∨ ∃ text ms, i = .print text ms ∧ ms ≠ 0)

/-! ### Refusals -/

/-- 60_exceptions.md R240: a call that is refused writes the mark with its record and nothing else, and it emits nothing; after a refusal no host
operation runs, and no record is taken. -/
def Obligations.ARefusalWritesOnlyTheMark : Prop :=
  (∀ (i : Instr) (s t : State), exec i s = .next t → s.refused = false → t.refused = true →
      ∃ r, t = { s with refused := true, refusal := some r })
    ∧ (∀ (i : Instr) (s : State), i.port = .host ∨ i.port = .seq → s.refused = true → exec i s = .fault .runEnded)
    ∧ (∀ (s : State) (p : Port) (env : Env) (bytes : List Byte) (rest : List Input), s.refused = true →
        s.inbox = .record p env bytes :: rest → step s = .fault .runEnded)

/-- 60_exceptions.md R244: the grammar's refusals. A host record whose op code is unassigned or internal is refused `RF_BAD_OP`; an operand outside
its kind, a bitmap not of eight bytes and a 0x00 in a text are refused by their codes. The model's own: an internal primitive at the sequencer's
port outside an operation is refused `RF_BAD_OP` as issued by the host, and one inside an operation whose operand byte is outside its kind
(30_encoding.md R87) is refused `RF_ARG_RANGE` (log entry 19); of a bitmap that is wrong in both ways the number is reported (log entry 36). -/
def Obligations.GrammarRefusals : Prop :=
  (∀ s : State, s.callable →
    (∀ (env : Env) (op : Byte) (bytes : List Byte) (rest : List Input), s.inbox = .record .host env (op :: bytes) :: rest →
        op.toNat ∈ [0x0D, 0x0E, 0x0F, 0x16, 0x17, 0x18, 0x19, 0x1A, 0x1B, 0x1C, 0x1D, 0x1E, 0x1F] →
        step s = .next (({ s with env := env, inbox := rest } : State).mark .badOp (some op.toNat)))
      ∧ (∀ i : Instr, i.port = .seq → exec i s = .next (s.mark .badOp (recordOp (encode i))))
      ∧ (∀ (i : Instr) (op : Nat), recordOp (encode i) = some op →
          ((∃ c r, i = .setCursor c r ∧ ¬ (c < 256 ∧ r < 256)) ∨ (∃ v, i = .setCursorVisible v ∧ 2 ≤ v)
            ∨ (∃ v, i = .setScrollDirection v ∧ 2 ≤ v) ∨ (∃ v, i = .setAutoscroll v ∧ 2 ≤ v) ∨ (∃ b, i = .writeGlyph b ∧ 256 ≤ b)
            ∨ (∃ k m, i = .defineGlyph k m ∧ (256 ≤ k ∨ ∃ b ∈ m, 256 ≤ b))
            ∨ (∃ t0 t1 d, i = .showOverlay t0 t1 d ∧ Text.wf t0 = true ∧ Text.wf t1 = true ∧ 2 ^ 32 ≤ d)
            ∨ (∃ t d, i = .print t d ∧ Text.wf t = true ∧ 2 ^ 32 ≤ d) ∨ (∃ r t, i = .setBackground r t ∧ 256 ≤ r)
            ∨ (∃ r m, i = .setAnimationMode r m ∧ ¬ (r < 256 ∧ m < 3)) ∨ (∃ now, i = .tick now ∧ 2 ^ 32 ≤ now)) →
          exec i s = .next (s.mark .argRange (some op)))
      ∧ (∀ k m, k < 256 → (∀ b ∈ m, b < 256) → m.length ≠ 8 → exec (.defineGlyph k m) s = .next (s.mark .bitmapLen (some 0x0C)))
      ∧ (∀ i : Instr, ∀ op : Nat, recordOp (encode i) = some op →
          ((∃ t0 t1 d, i = .showOverlay t0 t1 d ∧ ¬ (Text.wf t0 = true ∧ Text.wf t1 = true))
            ∨ (∃ t d, i = .print t d ∧ Text.wf t = false) ∨ (∃ r t, i = .setBackground r t ∧ r < 256 ∧ Text.wf t = false)
            ∨ (∃ u l, i = .setBackgroundRows u l ∧ ¬ (Text.wf u = true ∧ Text.wf l = true))) →
          exec i s = .next (s.mark .nulText (some op))))
    ∧ (∀ (s : State) (op k : Nat) (g : Bool) (env : Env) (bytes : List Byte) (rest : List Input), s.inside op k g →
        s.inbox = .record .seq env bytes :: rest →
        (∃ rs e n : Byte, bytes = [0x18, rs, e, n] ∧ ¬ (rs.toNat < 2 ∧ e.toNat < 2 ∧ n.toNat < 16))
          ∨ (∃ rs n : Byte, bytes = [0x19, rs, n] ∧ ¬ (rs.toNat < 2 ∧ n.toNat < 16))
          ∨ (∃ rs v : Byte, bytes = [0x1A, rs, v] ∧ 2 ≤ rs.toNat)
          ∨ (∃ r : Byte, (bytes = [0x1B, r] ∨ bytes = [0x1C, r]) ∧ 2 ≤ r.toNat) →
        step s = .next (({ s with env := env, inbox := rest } : State).mark .argRange (recordOp bytes)))

/-- 60_exceptions.md R243: the time refusals of TICK, SHOW_OVERLAY and PRINT, at their bounds. -/
def Obligations.TimeRefusals : Prop :=
  ∀ s : State, s.ready →
    (∀ now, now < 2 ^ 32 → now < s.clkLast → exec (.tick now) s = .next (s.mark .timeBackward (some 0x15)))
      ∧ (∀ now, now < 2 ^ 32 → s.clkLast ≤ now → 2 ^ 32 ≤ now + 450 → exec (.tick now) s = .next (s.mark .timeRange (some 0x15)))
      ∧ (∀ t0 t1 dur, Text.wf t0 = true → Text.wf t1 = true → dur < 2 ^ 32 → 2 ^ 32 ≤ s.readClock + dur →
          exec (.showOverlay t0 t1 dur) s = .next (s.mark .timeRange (some 0x10)))
      ∧ (∀ text ms, Text.wf text = true → ms < 2 ^ 32 → ms ≠ 0 → 2 ^ 32 ≤ s.readClock + ms →
          exec (.print text ms) s = .next (s.mark .timeRange (some 0x11)))

/-- 60_exceptions.md R245 and R250: a host call inside an operation is refused `RF_REENTRANT`, whatever else is wrong with it; then the operands are
checked, before `RF_UNINIT`, `RF_REINIT` and the time checks, and a TICK that goes back is refused for that before its range. -/
def Obligations.RefusalPriority : Prop :=
  ∀ (i : Instr) (s : State), i.port = .host → s.refused = false →
    (s.seq ≠ .idle → exec i s = .next (s.mark .reentrant (recordOp (encode i))))
      ∧ (∀ (env : Env) (bytes : List Byte) (rest : List Input), s.seq ≠ .idle → s.inbox = .record .host env bytes :: rest →
          step s = .next (({ s with env := env, inbox := rest } : State).mark .reentrant (recordOp bytes)))
      ∧ (∀ (env : Env) (op : Byte) (bytes : List Byte) (rest : List Input), s.seq = .idle →
          s.inbox = .record .host env (op :: bytes) :: rest →
          op.toNat ∈ [0x0D, 0x0E, 0x0F, 0x16, 0x17, 0x18, 0x19, 0x1A, 0x1B, 0x1C, 0x1D, 0x1E, 0x1F] →
          step s = .next (({ s with env := env, inbox := rest } : State).mark .badOp (some op.toNat)))
      ∧ (s.seq = .idle → i.wf = false → ∃ c ∈ [RefCode.argRange, .bitmapLen, .nulText],
          exec i s = .next (s.mark c (recordOp (encode i))))
      ∧ (∀ r text, s.seq = .idle → 256 ≤ r → Text.wf text = false →
          exec (.setBackground r text) s = .next (s.mark .argRange (some 0x12)))
      ∧ (∀ t0 t1 dur, s.seq = .idle → ¬ (Text.wf t0 = true ∧ Text.wf t1 = true) → 2 ^ 32 ≤ dur →
          exec (.showOverlay t0 t1 dur) s = .next (s.mark .nulText (some 0x10)))
      ∧ (∀ text ms, s.seq = .idle → Text.wf text = false → 2 ^ 32 ≤ ms →
          exec (.print text ms) s = .next (s.mark .nulText (some 0x11)))
      ∧ (∀ slot bitmap, s.seq = .idle → 256 ≤ slot → bitmap.length ≠ 8 →
          exec (.defineGlyph slot bitmap) s = .next (s.mark .argRange (some 0x0C)))
      ∧ (s.seq = .idle → i.wf = true → s.init = false → i ≠ .opInitialize → exec i s = .next (s.mark .uninit (recordOp (encode i))))
      ∧ (s.seq = .idle → i.wf = true → s.init = true → i = .opInitialize → exec i s = .next (s.mark .reinit (some 0x00)))
      ∧ (s.ready → i.wf = true → ∀ now, i = .tick now → now < s.clkLast → exec i s = .next (s.mark .timeBackward (some 0x15)))

/-! ### The controller's side -/

/-- 47_display_observer.md R217, R216 and R275: what each command byte does to a controller at a byte boundary, which is then busy for what is left of
its about 37 µs, or 1.52 ms for clear and home, after the settle of its second nibble; one that comes before the last byte is done leaves
the state undetermined, and so do handshake nibbles too close together inside it (70_reset_and_hazards.md R277; a byte's two nibbles are
a strobe and a settle apart). Every other field of the state, both memories among them but where a command writes one, stays, but for what
the controller was fed (log entries 21 and 33). -/
def Obligations.ControllerCommandEffects : Prop :=
  ∀ (s : State) (l : Lcd) (v : Byte), s.bus.panel.AtBoundary →
    l = { s.bus.panel.lcd with undef := s.bus.panel.lcd.undef || decide (1 < s.bus.panel.time.busy) } →
    (encode .cmdClearDisplay = [v, 0] →
        ∃ m, exec .cmdClearDisplay s = .next (s.byteTaken false v 1520 { l with ddram := m, ac := 0, tgt := .ddram, id := true, shift := 0 })
          ∧ ∀ a, Memory.read Memory.ddramBlank m a = 0x20)
      ∧ (∀ x, encode (.cmdReturnHome x) = [v, 0] →
          exec (.cmdReturnHome x) s = .next (s.byteTaken false v 1520 { l with ac := 0, tgt := .ddram, shift := 0 }))
      ∧ (∀ i sh, encode (.cmdEntryModeSet i sh) = [v, 0] →
          exec (.cmdEntryModeSet i sh) s = .next (s.byteTaken false v 37 { l with id := i, s := sh }))
      ∧ (∀ d c b, encode (.cmdDisplayControl d c b) = [v, 0] →
          exec (.cmdDisplayControl d c b) s = .next (s.byteTaken false v 37 { l with d := d, c := c, b := b }))
      ∧ (∀ sc rl x, encode (.cmdCursorDisplayShift sc rl x) = [v, 0] →
          exec (.cmdCursorDisplayShift sc rl x) s = .next (s.byteTaken false v 37 { l with undef := true }))
      ∧ (∀ dl n f x, encode (.cmdFunctionSet dl n f x) = [v, 0] →
          exec (.cmdFunctionSet dl n f x) s = .next (s.byteTaken false v 37
            { l with dl := dl, n := n, f := f,
                     undef := l.undef || (dl &&
                       (decide (1 ≤ s.bus.panel.time.hs ∧ s.bus.panel.time.since + 1 < 4100) || (!n && !f && x == 0x3))) }))
      ∧ (∀ a, encode (.cmdSetCgramAddress a) = [v, 0] →
          exec (.cmdSetCgramAddress a) s = .next (s.byteTaken false v 37 { l with ac := a.setWidth 7, tgt := .cgram }))
      ∧ (∀ a, encode (.cmdSetDdramAddress a) = [v, 0] → l.n = true →
          exec (.cmdSetDdramAddress a) s = .next (s.byteTaken false v 37
            { l with ac := a, tgt := .ddram,
                     undef := l.undef || !(decide (a.toNat ≤ 0x27) || decide (0x40 ≤ a.toNat ∧ a.toNat ≤ 0x67)) }))

/-- 47_display_observer.md R218 and R222: a data byte is written where the address counter points, every other cell of both memories reads as before,
the display shifts when `S` is set, and the address counter moves. That a byte at a DDRAM address that does not exist is stored there, and
that `AC` moves by one modulo 128 from it, is log entry 17. A byte that comes before the last one is done leaves the state undetermined
(R216). -/
def Obligations.DataWriteEffect : Prop :=
  ∀ (s : State) (l : Lcd) (v : Byte), s.bus.panel.AtBoundary → s.bus.panel.ok →
    l = { s.bus.panel.lcd with undef := s.bus.panel.lcd.undef || decide (1 < s.bus.panel.time.busy) } →
    ∃ m, exec (.dataWrite v) s = .next (s.byteTaken true v 37 m)
      ∧ (l.tgt = .ddram → m = { l with ddram := m.ddram, shift := m.shift, ac := m.ac }
          ∧ (∀ a, Memory.read Memory.ddramBlank m.ddram a =
              if a = l.ac.toNat then v else Memory.read Memory.ddramBlank l.ddram a)
          ∧ m.shift = (if l.s then (l.shift + if l.id then 1 else 39) % 40 else l.shift)
          ∧ (l.id = true → m.ac = if l.ac = 0x27 then 0x40 else if l.ac = 0x67 then 0x00 else l.ac + 1)
          ∧ (l.id = false → m.ac = if l.ac = 0x40 then 0x27 else if l.ac = 0x00 then 0x67 else l.ac - 1))
      ∧ (l.tgt = .cgram → l.ac.toNat < 64 → m = { l with cgram := m.cgram, ac := m.ac }
          ∧ (∀ a, Memory.read Memory.cgramBlank m.cgram a =
              if a = l.ac.toNat then v.setWidth 5 else Memory.read Memory.cgramBlank l.cgram a)
          ∧ (l.id = true → m.ac.toNat = (l.ac.toNat + 1) % 64) ∧ (l.id = false → m.ac.toNat = (l.ac.toNat + 63) % 64))

/-- 30_encoding.md R75, R91 and 47_display_observer.md R215: every controller byte but the command 0x00, which no row of the table has, reaches the
controller as its two nibble writes, in every state of it; at a byte boundary, with the last byte done and no handshake nibble first,
that is one execution of the byte. -/
def Obligations.RowsRunTheirBytes : Prop :=
  ∀ (s : State) (rs : Bool) (v : Byte) (i : Instr), decodeController rs v = .ok i →
    exec i s = .next (s.feed (nibbleEvents true rs (v.extractLsb' 4 4) ++ nibbleEvents true rs (v.extractLsb' 0 4)))
      ∧ (s.bus.panel.AtBoundary → s.bus.panel.time.busy ≤ 1 → rs = true ∨ v.extractLsb' 4 4 ≠ 0x3 →
          exec i s = .next (s.byteTaken rs v (execTime rs v) (s.bus.panel.lcd.execByte rs v)))

/-- 30_encoding.md R74, 47_display_observer.md R213 to R215: a handshake nibble is one strobe, whatever E was before it, and leaves E low. In 4-bit mode
at a byte boundary it is taken as a high nibble; otherwise it completes a byte, which executes; before the controller is in step its state
is undetermined and nothing else changes (log entry 15); and 0x2 after three nibbles 0x3 with their gaps brings it into step (log entry
14). A strobe before the last byte is done leaves the state undetermined (R216), and so does a handshake nibble too soon after the one
before it (70_reset_and_hazards.md R277). The block's fields stay, and the nibble is one more the controller was fed (log entries 21 and
33). -/
def Obligations.HandshakeNibblesStrobe : Prop :=
  ∀ (s : State) (p : Panel), p = s.bus.panel →
    ∀ (i : Instr) (n : Nibble) (bad : Bool), (i = .handshakeNibble8bit ∧ n = 0x3) ∨ (i = .handshakeNibble4bit ∧ n = 0x2) →
    bad = decide (1 < p.time.busy ∨ (n = 0x3 ∧ 1 ≤ p.time.hs ∧ p.time.since + 1 < 4100) ∨ (n = 0x2 ∧ 3 ≤ p.time.hs)) →
    ∃ t, exec i s = .next t
      ∧ t = { s with bus := { s.bus with panel := t.bus.panel, fed := s.bus.fed ++ nibbleEvents true false n } }
      ∧ t.bus.panel.time.since = 100
      ∧ (n = 0x2 ∧ 3 ≤ p.time.hs ∧ 150 ≤ p.time.since + 1 →
          t.bus.panel.lcd = { p.lcd with e := false, sync := .sync4, phase := .hi, dl := false, undef := false })
      ∧ (¬ (n = 0x2 ∧ 3 ≤ p.time.hs ∧ 150 ≤ p.time.since + 1) →
          (p.lcd.sync = .unknown → t.bus.panel.lcd = { p.lcd with e := false, undef := true })
          ∧ (p.lcd.sync = .sync4 → p.lcd.phase = .hi →
              t.bus.panel.lcd = { p.lcd with e := false, hi := n, phase := .lo, undef := p.lcd.undef || bad })
          ∧ (p.lcd.sync = .sync4 → p.lcd.phase = .lo →
              t.bus.panel.lcd = Lcd.execByte false (joinNibbles p.lcd.hi n)
                { p.lcd with e := false, phase := .hi, undef := p.lcd.undef || bad }))

/-! ### Invariants -/

/-- The state after reset meets the invariant. -/
def Obligations.ResetMeetsTheInvariant : Prop := State.reset.Inv

/-- 10_state.md R31 and 42_scheduler.md R178 among others: every step keeps the invariant, from every state that meets it: the RowBuffers, the timestamps
below the limit, the layout INITIALIZE fixes, the refusal with its record, the idle lines, and the controller's memories in canonical form
inside their address spaces. The refusal's record is the model's (log entry 4), the controller is in the state by general knowledge (log
entry 12), and the canonical form of its memories is the model's (log entry 18). -/
def Obligations.EveryStepKeepsTheInvariant : Prop :=
  ∀ s t : State, s.Inv → step s = .next t → t.Inv

/-- 10_state.md R38, 47_display_observer.md R210: a host operation or internal primitive only adds events at the end of the trace, and the controller is
where these events bring it. -/
def Obligations.TheTraceOnlyGrowsAndMovesTheController : Prop :=
  ∀ (i : Instr) (s t : State), i.port = .host ∨ i.port = .seq → exec i s = .next t →
    ∃ evs, s.bus.After evs t.bus

/-- 47_display_observer.md R231, 40_bus_adapter.md R104: from every state whose trace is that of a block, a step on an input that the host or a firmware
reset gives leaves such a trace, and the checker passes it, its intervals among the rest, whatever the gate was; and with no feed but the
block's the display is never a fault (how a feed is judged is log entry 33). -/
def Obligations.HostStepsKeepTheTraceConformant : Prop :=
  ∀ s t : State, s.TraceInv → s.seq = .idle →
    (∀ p env bytes rest, s.inbox = .record p env bytes :: rest → p = .host) → step s = .next t →
    t.TraceInv ∧ checkTrace t.bus.trace = none
      ∧ (s.bus.fed = s.bus.trace → s.bus.misfed = false → (∀ d rest, s.inbox ≠ .pause d :: rest) →
          t.bus.fed = t.bus.trace ∧ t.bus.misfed = false ∧ ∃ picture, t.display = .ok picture)

/-- 41_controller_driver.md R135, 47_display_observer.md R215, R216: from every state with the controller at a byte boundary, done with its last byte, a
host operation leaves it so, with the gate open or closed. -/
def Obligations.HostOperationsKeepTheControllerInStep : Prop :=
  ∀ (i : Instr) (s t : State), i.port = .host → s.bus.panel.Synced → exec i s = .next t → t.bus.panel.Synced
end

