-- ==== Sys2Proof/Laws/Bus.lean ====
section
/-! SUPPORT. The bus side, once: what one byte over the serial link leaves (spec 40_bus_adapter.md R100, R101), what emitting events does to the trace,
to `SR` and `PAR`, and to the controller, and that a closed gate moves no line (R102). -/

namespace Sys2Proof.Machine

/-! ### One byte over the link -/

/-- Eight bits shifted in, the least significant first, make the byte, whatever the register held. -/
theorem shiftIn_eight (b sr : Byte) :
    shiftIn (b.getLsbD 7) (shiftIn (b.getLsbD 6) (shiftIn (b.getLsbD 5) (shiftIn (b.getLsbD 4) (shiftIn (b.getLsbD 3)
      (shiftIn (b.getLsbD 2) (shiftIn (b.getLsbD 1) (shiftIn (b.getLsbD 0) sr))))))) = b := by
  have key : ∀ (c : Bool) (x : Byte) (i : Nat), i < 8 →
      (shiftIn c x).getLsbD i = if i = 7 then c else x.getLsbD (i + 1) := by
    intro c x i hi
    cases c <;> simp [shiftIn, bitAt, BitVec.getLsbD_or, BitVec.getLsbD_ushiftRight] <;>
      interval_cases i <;> simp [BitVec.getLsbD_of_ge]
  apply BitVec.eq_of_getLsbD_eq
  intro i hi
  interval_cases i <;>
    simp only [key, Nat.reduceLT, Nat.reduceEqDiff, Nat.reduceAdd, reduceIte, if_true]

/-- What one byte over the link leaves: `SR` and `PAR` hold it, SDA its last bit, the clock and the latch idle, and the controller has seen
it; the trace stays. -/
theorem shiftOut_spec (b : Byte) (bus : Bus) :
    bus.shiftOut b =
      { bus with sr := b, par := b, lines := ⟨b.getLsbD 7, false, true⟩, panel := bus.panel.see b } := by
  have h := shiftIn_eight b bus.sr
  simp only [BitVec.getLsbD_eq_getElem, Nat.reduceLT] at h
  simp [Bus.shiftOut, lineSteps, List.range, List.range.loop, Bus.drive, h]

/-! ### Emitting one event -/

@[simp] theorem emit_xmit_open (bus : Bus) (b : Byte) :
    bus.emit (.xmit b true) =
      { bus with sr := b, par := b, lines := ⟨b.getLsbD 7, false, true⟩, panel := bus.panel.see b,
                 trace := bus.trace ++ [.xmit b true], fed := bus.fed ++ [.xmit b true] } := by
  simp [Bus.emit, Bus.record, Bus.note, shiftOut_spec]

@[simp] theorem emit_xmit_closed (bus : Bus) (b : Byte) :
    bus.emit (.xmit b false) = { bus with trace := bus.trace ++ [.xmit b false], fed := bus.fed ++ [.xmit b false] } := rfl

@[simp] theorem emit_wait (bus : Bus) (t : Nat) :
    bus.emit (.wait t) =
      { bus with panel := bus.panel.elapse t, trace := bus.trace ++ [.wait t], fed := bus.fed ++ [.wait t] } := rfl

/-! ### Emitting events in order -/

@[simp] theorem play_nil (bus : Bus) : bus.play [] = bus := rfl
@[simp] theorem play_cons (bus : Bus) (e : Event) (evs : List Event) : bus.play (e :: evs) = (bus.emit e).play evs := rfl
theorem play_append (bus : Bus) (xs ys : List Event) : bus.play (xs ++ ys) = (bus.play xs).play ys := by
  simp [Bus.play, List.foldl_append]

@[simp] theorem replay_nil (p : Panel) : p.replay [] = p := rfl
@[simp] theorem replay_cons (p : Panel) (e : Event) (evs : List Event) : p.replay (e :: evs) = (p.observe e).replay evs := rfl
theorem replay_append (p : Panel) (xs ys : List Event) : p.replay (xs ++ ys) = (p.replay xs).replay ys := by
  simp [Panel.replay, List.foldl_append]

theorem emit_trace (bus : Bus) (e : Event) : (bus.emit e).trace = bus.trace ++ [e] := by
  rcases e with ⟨b, _ | _⟩ | t <;> simp

theorem emit_fed (bus : Bus) (e : Event) : (bus.emit e).fed = bus.fed ++ [e] := by
  rcases e with ⟨b, _ | _⟩ | t <;> simp

theorem emit_panel (bus : Bus) (e : Event) : (bus.emit e).panel = bus.panel.observe e := by
  rcases e with ⟨b, _ | _⟩ | t <;> simp [Panel.observe]

/-- The trace records what is emitted, in order, and nothing else. -/
@[simp] theorem play_trace (bus : Bus) (evs : List Event) : (bus.play evs).trace = bus.trace ++ evs := by
  induction evs generalizing bus with
  | nil => simp
  | cons e evs ih => simp [ih, emit_trace]

/-- The controller's side is fed what is emitted. -/
@[simp] theorem play_fed (bus : Bus) (evs : List Event) : (bus.play evs).fed = bus.fed ++ evs := by
  induction evs generalizing bus with
  | nil => simp
  | cons e evs ih => simp [ih, emit_fed]

theorem emit_misfed (bus : Bus) (e : Event) : (bus.emit e).misfed = bus.misfed := by
  rcases e with ⟨b, _ | _⟩ | t <;> simp

/-- What is emitted stands in frames. -/
@[simp] theorem play_misfed (bus : Bus) (evs : List Event) : (bus.play evs).misfed = bus.misfed := by
  induction evs generalizing bus with
  | nil => rfl
  | cons e evs ih => simp [ih, emit_misfed]

/-- The controller makes of the emitted events what it makes of them as a trace. -/
@[simp] theorem play_panel (bus : Bus) (evs : List Event) : (bus.play evs).panel = bus.panel.replay evs := by
  induction evs generalizing bus with
  | nil => rfl
  | cons e evs ih => simp [ih, emit_panel]

theorem emit_idle (bus : Bus) (e : Event) (h : bus.lines.sck = false ∧ bus.lines.lat = true) :
    (bus.emit e).lines.sck = false ∧ (bus.emit e).lines.lat = true := by
  rcases e with ⟨b, _ | _⟩ | t <;> simp [h]

/-- The clock and the latch are idle after every event. -/
theorem play_idle (bus : Bus) (evs : List Event) (h : bus.lines.sck = false ∧ bus.lines.lat = true) :
    (bus.play evs).lines.sck = false ∧ (bus.play evs).lines.lat = true := by
  induction evs generalizing bus with
  | nil => exact h
  | cons e evs ih => exact ih (bus.emit e) (emit_idle bus e h)

/-- What emitting events leaves, all of it. -/
theorem play_after (bus : Bus) (evs : List Event) : bus.After evs (bus.play evs) := by
  have key : (bus.play evs).sr = (lastOpen evs).getD bus.sr ∧ (bus.play evs).par = (lastOpen evs).getD bus.par ∧
      (bus.play evs).lines =
        match lastOpen evs with
        | some x => ⟨x.getLsbD 7, false, true⟩
        | none => bus.lines := by
    induction evs generalizing bus with
    | nil => simp [lastOpen]
    | cons e evs ih =>
      have h := ih (bus.emit e)
      rcases e with ⟨b, _ | _⟩ | t <;> cases hl : lastOpen evs <;> simp_all [lastOpen]
  exact ⟨play_trace bus evs, play_fed bus evs, play_misfed bus evs, play_panel bus evs, key.1, key.2.1, key.2.2⟩

/-- What emitting events leaves of the state. -/
theorem emit_emits (s : State) (evs : List Event) : s.Emits evs (s.emit evs) := ⟨rfl, play_after s.bus evs⟩

/-- A feed reaches the controller alone (47_display_observer.md R231; log entry 21). -/
theorem feed_eq (s : State) (evs : List Event) :
    s.feed evs = { s with bus := { s.bus with panel := s.bus.panel.replay evs, fed := s.bus.fed ++ evs } } := rfl

/-- No event of a list is an open transmit. -/
def allGated (evs : List Event) : Bool :=
  evs.all fun e => match e with
    | .xmit _ g => !g
    | .wait _ => true

/-- A closed gate moves no line and leaves the shift register (40_bus_adapter.md R102). -/
theorem play_gated (bus : Bus) (evs : List Event) (h : allGated evs = true) :
    (bus.play evs).sr = bus.sr ∧ (bus.play evs).par = bus.par ∧ (bus.play evs).lines = bus.lines
      ∧ (bus.play evs).panel.lcd = bus.panel.lcd := by
  induction evs generalizing bus with
  | nil => simp
  | cons e evs ih =>
    rcases e with ⟨b, _ | _⟩ | t
    · have := ih (bus.emit (.xmit b false)) (by simpa [allGated] using h)
      simpa using this
    · simp [allGated] at h
    · have := ih (bus.emit (.wait t)) (by simpa [allGated] using h)
      simpa [Panel.elapse] using this

end Sys2Proof.Machine
end

