-- ==== Sys2Proof/Laws/State.lean ====
section
/-! SUPPORT. What each update of the state writes and leaves: one lemma for each field of `State` under each named update, true by
definition. -/

namespace Sys2Proof.Machine

/-! ### Emitting events -/

@[simp] theorem State.emit_init (s : State) (evs : List Event) : (s.emit evs).init = s.init := rfl
@[simp] theorem State.emit_ctl (s : State) (evs : List Event) : (s.emit evs).ctl = s.ctl := rfl
@[simp] theorem State.emit_ent (s : State) (evs : List Event) : (s.emit evs).ent = s.ent := rfl
@[simp] theorem State.emit_fn (s : State) (evs : List Event) : (s.emit evs).fn = s.fn := rfl
@[simp] theorem State.emit_rowOffsets (s : State) (evs : List Event) : (s.emit evs).rowOffsets = s.rowOffsets := rfl
@[simp] theorem State.emit_numLines (s : State) (evs : List Event) : (s.emit evs).numLines = s.numLines := rfl
@[simp] theorem State.emit_row0 (s : State) (evs : List Event) : (s.emit evs).row0 = s.row0 := rfl
@[simp] theorem State.emit_row1 (s : State) (evs : List Event) : (s.emit evs).row1 = s.row1 := rfl
@[simp] theorem State.emit_ov (s : State) (evs : List Event) : (s.emit evs).ov = s.ov := rfl
@[simp] theorem State.emit_clkLast (s : State) (evs : List Event) : (s.emit evs).clkLast = s.clkLast := rfl
@[simp] theorem State.emit_bus (s : State) (evs : List Event) : (s.emit evs).bus = s.bus.play evs := rfl
@[simp] theorem State.emit_refused (s : State) (evs : List Event) : (s.emit evs).refused = s.refused := rfl
@[simp] theorem State.emit_refusal (s : State) (evs : List Event) : (s.emit evs).refusal = s.refusal := rfl
@[simp] theorem State.emit_seq (s : State) (evs : List Event) : (s.emit evs).seq = s.seq := rfl
@[simp] theorem State.emit_env (s : State) (evs : List Event) : (s.emit evs).env = s.env := rfl
@[simp] theorem State.emit_inbox (s : State) (evs : List Event) : (s.emit evs).inbox = s.inbox := rfl
@[simp] theorem State.emit_boots (s : State) (evs : List Event) : (s.emit evs).boots = s.boots := rfl

/-! ### `ctl.* <-` -/

@[simp] theorem State.setCtl_init (s : State) (c : Ctl) : (s.setCtl c).init = s.init := rfl
@[simp] theorem State.setCtl_ctl (s : State) (c : Ctl) : (s.setCtl c).ctl = c := rfl
@[simp] theorem State.setCtl_ent (s : State) (c : Ctl) : (s.setCtl c).ent = s.ent := rfl
@[simp] theorem State.setCtl_fn (s : State) (c : Ctl) : (s.setCtl c).fn = s.fn := rfl
@[simp] theorem State.setCtl_rowOffsets (s : State) (c : Ctl) : (s.setCtl c).rowOffsets = s.rowOffsets := rfl
@[simp] theorem State.setCtl_numLines (s : State) (c : Ctl) : (s.setCtl c).numLines = s.numLines := rfl
@[simp] theorem State.setCtl_row0 (s : State) (c : Ctl) : (s.setCtl c).row0 = s.row0 := rfl
@[simp] theorem State.setCtl_row1 (s : State) (c : Ctl) : (s.setCtl c).row1 = s.row1 := rfl
@[simp] theorem State.setCtl_ov (s : State) (c : Ctl) : (s.setCtl c).ov = s.ov := rfl
@[simp] theorem State.setCtl_clkLast (s : State) (c : Ctl) : (s.setCtl c).clkLast = s.clkLast := rfl
@[simp] theorem State.setCtl_bus (s : State) (c : Ctl) : (s.setCtl c).bus = s.bus := rfl
@[simp] theorem State.setCtl_refused (s : State) (c : Ctl) : (s.setCtl c).refused = s.refused := rfl
@[simp] theorem State.setCtl_refusal (s : State) (c : Ctl) : (s.setCtl c).refusal = s.refusal := rfl
@[simp] theorem State.setCtl_seq (s : State) (c : Ctl) : (s.setCtl c).seq = s.seq := rfl
@[simp] theorem State.setCtl_env (s : State) (c : Ctl) : (s.setCtl c).env = s.env := rfl
@[simp] theorem State.setCtl_inbox (s : State) (c : Ctl) : (s.setCtl c).inbox = s.inbox := rfl
@[simp] theorem State.setCtl_boots (s : State) (c : Ctl) : (s.setCtl c).boots = s.boots := rfl

/-! ### `ent.* <-` -/

@[simp] theorem State.setEnt_init (s : State) (e : Ent) : (s.setEnt e).init = s.init := rfl
@[simp] theorem State.setEnt_ctl (s : State) (e : Ent) : (s.setEnt e).ctl = s.ctl := rfl
@[simp] theorem State.setEnt_ent (s : State) (e : Ent) : (s.setEnt e).ent = e := rfl
@[simp] theorem State.setEnt_fn (s : State) (e : Ent) : (s.setEnt e).fn = s.fn := rfl
@[simp] theorem State.setEnt_rowOffsets (s : State) (e : Ent) : (s.setEnt e).rowOffsets = s.rowOffsets := rfl
@[simp] theorem State.setEnt_numLines (s : State) (e : Ent) : (s.setEnt e).numLines = s.numLines := rfl
@[simp] theorem State.setEnt_row0 (s : State) (e : Ent) : (s.setEnt e).row0 = s.row0 := rfl
@[simp] theorem State.setEnt_row1 (s : State) (e : Ent) : (s.setEnt e).row1 = s.row1 := rfl
@[simp] theorem State.setEnt_ov (s : State) (e : Ent) : (s.setEnt e).ov = s.ov := rfl
@[simp] theorem State.setEnt_clkLast (s : State) (e : Ent) : (s.setEnt e).clkLast = s.clkLast := rfl
@[simp] theorem State.setEnt_bus (s : State) (e : Ent) : (s.setEnt e).bus = s.bus := rfl
@[simp] theorem State.setEnt_refused (s : State) (e : Ent) : (s.setEnt e).refused = s.refused := rfl
@[simp] theorem State.setEnt_refusal (s : State) (e : Ent) : (s.setEnt e).refusal = s.refusal := rfl
@[simp] theorem State.setEnt_seq (s : State) (e : Ent) : (s.setEnt e).seq = s.seq := rfl
@[simp] theorem State.setEnt_env (s : State) (e : Ent) : (s.setEnt e).env = s.env := rfl
@[simp] theorem State.setEnt_inbox (s : State) (e : Ent) : (s.setEnt e).inbox = s.inbox := rfl
@[simp] theorem State.setEnt_boots (s : State) (e : Ent) : (s.setEnt e).boots = s.boots := rfl

/-! ### `ov.* <-` -/

@[simp] theorem State.setOv_init (s : State) (o : Overlay) : (s.setOv o).init = s.init := rfl
@[simp] theorem State.setOv_ctl (s : State) (o : Overlay) : (s.setOv o).ctl = s.ctl := rfl
@[simp] theorem State.setOv_ent (s : State) (o : Overlay) : (s.setOv o).ent = s.ent := rfl
@[simp] theorem State.setOv_fn (s : State) (o : Overlay) : (s.setOv o).fn = s.fn := rfl
@[simp] theorem State.setOv_rowOffsets (s : State) (o : Overlay) : (s.setOv o).rowOffsets = s.rowOffsets := rfl
@[simp] theorem State.setOv_numLines (s : State) (o : Overlay) : (s.setOv o).numLines = s.numLines := rfl
@[simp] theorem State.setOv_row0 (s : State) (o : Overlay) : (s.setOv o).row0 = s.row0 := rfl
@[simp] theorem State.setOv_row1 (s : State) (o : Overlay) : (s.setOv o).row1 = s.row1 := rfl
@[simp] theorem State.setOv_ov (s : State) (o : Overlay) : (s.setOv o).ov = o := rfl
@[simp] theorem State.setOv_clkLast (s : State) (o : Overlay) : (s.setOv o).clkLast = s.clkLast := rfl
@[simp] theorem State.setOv_bus (s : State) (o : Overlay) : (s.setOv o).bus = s.bus := rfl
@[simp] theorem State.setOv_refused (s : State) (o : Overlay) : (s.setOv o).refused = s.refused := rfl
@[simp] theorem State.setOv_refusal (s : State) (o : Overlay) : (s.setOv o).refusal = s.refusal := rfl
@[simp] theorem State.setOv_seq (s : State) (o : Overlay) : (s.setOv o).seq = s.seq := rfl
@[simp] theorem State.setOv_env (s : State) (o : Overlay) : (s.setOv o).env = s.env := rfl
@[simp] theorem State.setOv_inbox (s : State) (o : Overlay) : (s.setOv o).inbox = s.inbox := rfl
@[simp] theorem State.setOv_boots (s : State) (o : Overlay) : (s.setOv o).boots = s.boots := rfl

/-! ### `clk.last <-` -/

@[simp] theorem State.setClk_init (s : State) (k : Nat) : (s.setClk k).init = s.init := rfl
@[simp] theorem State.setClk_ctl (s : State) (k : Nat) : (s.setClk k).ctl = s.ctl := rfl
@[simp] theorem State.setClk_ent (s : State) (k : Nat) : (s.setClk k).ent = s.ent := rfl
@[simp] theorem State.setClk_fn (s : State) (k : Nat) : (s.setClk k).fn = s.fn := rfl
@[simp] theorem State.setClk_rowOffsets (s : State) (k : Nat) : (s.setClk k).rowOffsets = s.rowOffsets := rfl
@[simp] theorem State.setClk_numLines (s : State) (k : Nat) : (s.setClk k).numLines = s.numLines := rfl
@[simp] theorem State.setClk_row0 (s : State) (k : Nat) : (s.setClk k).row0 = s.row0 := rfl
@[simp] theorem State.setClk_row1 (s : State) (k : Nat) : (s.setClk k).row1 = s.row1 := rfl
@[simp] theorem State.setClk_ov (s : State) (k : Nat) : (s.setClk k).ov = s.ov := rfl
@[simp] theorem State.setClk_clkLast (s : State) (k : Nat) : (s.setClk k).clkLast = k := rfl
@[simp] theorem State.setClk_bus (s : State) (k : Nat) : (s.setClk k).bus = s.bus := rfl
@[simp] theorem State.setClk_refused (s : State) (k : Nat) : (s.setClk k).refused = s.refused := rfl
@[simp] theorem State.setClk_refusal (s : State) (k : Nat) : (s.setClk k).refusal = s.refusal := rfl
@[simp] theorem State.setClk_seq (s : State) (k : Nat) : (s.setClk k).seq = s.seq := rfl
@[simp] theorem State.setClk_env (s : State) (k : Nat) : (s.setClk k).env = s.env := rfl
@[simp] theorem State.setClk_inbox (s : State) (k : Nat) : (s.setClk k).inbox = s.inbox := rfl
@[simp] theorem State.setClk_boots (s : State) (k : Nat) : (s.setClk k).boots = s.boots := rfl

/-! ### The refusal mark -/

@[simp] theorem State.mark_init (s : State) (c : RefCode) (op : Option Nat) : (s.mark c op).init = s.init := rfl
@[simp] theorem State.mark_ctl (s : State) (c : RefCode) (op : Option Nat) : (s.mark c op).ctl = s.ctl := rfl
@[simp] theorem State.mark_ent (s : State) (c : RefCode) (op : Option Nat) : (s.mark c op).ent = s.ent := rfl
@[simp] theorem State.mark_fn (s : State) (c : RefCode) (op : Option Nat) : (s.mark c op).fn = s.fn := rfl
@[simp] theorem State.mark_rowOffsets (s : State) (c : RefCode) (op : Option Nat) : (s.mark c op).rowOffsets = s.rowOffsets := rfl
@[simp] theorem State.mark_numLines (s : State) (c : RefCode) (op : Option Nat) : (s.mark c op).numLines = s.numLines := rfl
@[simp] theorem State.mark_row0 (s : State) (c : RefCode) (op : Option Nat) : (s.mark c op).row0 = s.row0 := rfl
@[simp] theorem State.mark_row1 (s : State) (c : RefCode) (op : Option Nat) : (s.mark c op).row1 = s.row1 := rfl
@[simp] theorem State.mark_ov (s : State) (c : RefCode) (op : Option Nat) : (s.mark c op).ov = s.ov := rfl
@[simp] theorem State.mark_clkLast (s : State) (c : RefCode) (op : Option Nat) : (s.mark c op).clkLast = s.clkLast := rfl
@[simp] theorem State.mark_bus (s : State) (c : RefCode) (op : Option Nat) : (s.mark c op).bus = s.bus := rfl
@[simp] theorem State.mark_refused (s : State) (c : RefCode) (op : Option Nat) : (s.mark c op).refused = true := rfl
@[simp] theorem State.mark_refusal (s : State) (c : RefCode) (op : Option Nat) : (s.mark c op).refusal = some ⟨c, op⟩ := rfl
@[simp] theorem State.mark_seq (s : State) (c : RefCode) (op : Option Nat) : (s.mark c op).seq = s.seq := rfl
@[simp] theorem State.mark_env (s : State) (c : RefCode) (op : Option Nat) : (s.mark c op).env = s.env := rfl
@[simp] theorem State.mark_inbox (s : State) (c : RefCode) (op : Option Nat) : (s.mark c op).inbox = s.inbox := rfl
@[simp] theorem State.mark_boots (s : State) (c : RefCode) (op : Option Nat) : (s.mark c op).boots = s.boots := rfl

/-! ### A feed of the controller -/

@[simp] theorem State.feed_init (s : State) (evs : List Event) : (s.feed evs).init = s.init := rfl
@[simp] theorem State.feed_ctl (s : State) (evs : List Event) : (s.feed evs).ctl = s.ctl := rfl
@[simp] theorem State.feed_ent (s : State) (evs : List Event) : (s.feed evs).ent = s.ent := rfl
@[simp] theorem State.feed_fn (s : State) (evs : List Event) : (s.feed evs).fn = s.fn := rfl
@[simp] theorem State.feed_rowOffsets (s : State) (evs : List Event) : (s.feed evs).rowOffsets = s.rowOffsets := rfl
@[simp] theorem State.feed_numLines (s : State) (evs : List Event) : (s.feed evs).numLines = s.numLines := rfl
@[simp] theorem State.feed_row0 (s : State) (evs : List Event) : (s.feed evs).row0 = s.row0 := rfl
@[simp] theorem State.feed_row1 (s : State) (evs : List Event) : (s.feed evs).row1 = s.row1 := rfl
@[simp] theorem State.feed_ov (s : State) (evs : List Event) : (s.feed evs).ov = s.ov := rfl
@[simp] theorem State.feed_clkLast (s : State) (evs : List Event) : (s.feed evs).clkLast = s.clkLast := rfl
@[simp] theorem State.feed_bus (s : State) (evs : List Event) : (s.feed evs).bus = { s.bus with panel := s.bus.panel.replay evs, fed := s.bus.fed ++ evs } := rfl
@[simp] theorem State.feed_refused (s : State) (evs : List Event) : (s.feed evs).refused = s.refused := rfl
@[simp] theorem State.feed_refusal (s : State) (evs : List Event) : (s.feed evs).refusal = s.refusal := rfl
@[simp] theorem State.feed_seq (s : State) (evs : List Event) : (s.feed evs).seq = s.seq := rfl
@[simp] theorem State.feed_env (s : State) (evs : List Event) : (s.feed evs).env = s.env := rfl
@[simp] theorem State.feed_inbox (s : State) (evs : List Event) : (s.feed evs).inbox = s.inbox := rfl
@[simp] theorem State.feed_boots (s : State) (evs : List Event) : (s.feed evs).boots = s.boots := rfl

/-! ### Bytes that are no frame -/

@[simp] theorem State.misfeed_init (s : State) : s.misfeed.init = s.init := rfl
@[simp] theorem State.misfeed_ctl (s : State) : s.misfeed.ctl = s.ctl := rfl
@[simp] theorem State.misfeed_ent (s : State) : s.misfeed.ent = s.ent := rfl
@[simp] theorem State.misfeed_fn (s : State) : s.misfeed.fn = s.fn := rfl
@[simp] theorem State.misfeed_rowOffsets (s : State) : s.misfeed.rowOffsets = s.rowOffsets := rfl
@[simp] theorem State.misfeed_numLines (s : State) : s.misfeed.numLines = s.numLines := rfl
@[simp] theorem State.misfeed_row0 (s : State) : s.misfeed.row0 = s.row0 := rfl
@[simp] theorem State.misfeed_row1 (s : State) : s.misfeed.row1 = s.row1 := rfl
@[simp] theorem State.misfeed_ov (s : State) : s.misfeed.ov = s.ov := rfl
@[simp] theorem State.misfeed_clkLast (s : State) : s.misfeed.clkLast = s.clkLast := rfl
@[simp] theorem State.misfeed_bus (s : State) : s.misfeed.bus = { s.bus with misfed := true } := rfl
@[simp] theorem State.misfeed_refused (s : State) : s.misfeed.refused = s.refused := rfl
@[simp] theorem State.misfeed_refusal (s : State) : s.misfeed.refusal = s.refusal := rfl
@[simp] theorem State.misfeed_seq (s : State) : s.misfeed.seq = s.seq := rfl
@[simp] theorem State.misfeed_env (s : State) : s.misfeed.env = s.env := rfl
@[simp] theorem State.misfeed_inbox (s : State) : s.misfeed.inbox = s.inbox := rfl
@[simp] theorem State.misfeed_boots (s : State) : s.misfeed.boots = s.boots := rfl

/-! ### Bytes put back -/

@[simp] theorem State.putBack_init (s : State) (p : Port) (bs : List Byte) : (s.putBack p bs).init = s.init := by cases bs <;> rfl
@[simp] theorem State.putBack_ctl (s : State) (p : Port) (bs : List Byte) : (s.putBack p bs).ctl = s.ctl := by cases bs <;> rfl
@[simp] theorem State.putBack_ent (s : State) (p : Port) (bs : List Byte) : (s.putBack p bs).ent = s.ent := by cases bs <;> rfl
@[simp] theorem State.putBack_fn (s : State) (p : Port) (bs : List Byte) : (s.putBack p bs).fn = s.fn := by cases bs <;> rfl
@[simp] theorem State.putBack_rowOffsets (s : State) (p : Port) (bs : List Byte) : (s.putBack p bs).rowOffsets = s.rowOffsets := by cases bs <;> rfl
@[simp] theorem State.putBack_numLines (s : State) (p : Port) (bs : List Byte) : (s.putBack p bs).numLines = s.numLines := by cases bs <;> rfl
@[simp] theorem State.putBack_row0 (s : State) (p : Port) (bs : List Byte) : (s.putBack p bs).row0 = s.row0 := by cases bs <;> rfl
@[simp] theorem State.putBack_row1 (s : State) (p : Port) (bs : List Byte) : (s.putBack p bs).row1 = s.row1 := by cases bs <;> rfl
@[simp] theorem State.putBack_ov (s : State) (p : Port) (bs : List Byte) : (s.putBack p bs).ov = s.ov := by cases bs <;> rfl
@[simp] theorem State.putBack_clkLast (s : State) (p : Port) (bs : List Byte) : (s.putBack p bs).clkLast = s.clkLast := by cases bs <;> rfl
@[simp] theorem State.putBack_bus (s : State) (p : Port) (bs : List Byte) : (s.putBack p bs).bus = s.bus := by cases bs <;> rfl
@[simp] theorem State.putBack_refused (s : State) (p : Port) (bs : List Byte) : (s.putBack p bs).refused = s.refused := by cases bs <;> rfl
@[simp] theorem State.putBack_refusal (s : State) (p : Port) (bs : List Byte) : (s.putBack p bs).refusal = s.refusal := by cases bs <;> rfl
@[simp] theorem State.putBack_seq (s : State) (p : Port) (bs : List Byte) : (s.putBack p bs).seq = s.seq := by cases bs <;> rfl
@[simp] theorem State.putBack_env (s : State) (p : Port) (bs : List Byte) : (s.putBack p bs).env = s.env := by cases bs <;> rfl
@[simp] theorem State.putBack_boots (s : State) (p : Port) (bs : List Byte) : (s.putBack p bs).boots = s.boots := by cases bs <;> rfl
@[simp] theorem State.putBack_nil (s : State) (p : Port) : s.putBack p [] = s := rfl
@[simp] theorem State.putBack_cons_inbox (s : State) (p : Port) (b : Byte) (bs : List Byte) :
    (s.putBack p (b :: bs)).inbox = .record p s.env (b :: bs) :: s.inbox := rfl

/-! ### `row[r] <-` -/

@[simp] theorem State.setRow_init (s : State) (r : RowIx) (rb : RowBuffer) : (s.setRow r rb).init = s.init := by cases r <;> rfl
@[simp] theorem State.setRow_ctl (s : State) (r : RowIx) (rb : RowBuffer) : (s.setRow r rb).ctl = s.ctl := by cases r <;> rfl
@[simp] theorem State.setRow_ent (s : State) (r : RowIx) (rb : RowBuffer) : (s.setRow r rb).ent = s.ent := by cases r <;> rfl
@[simp] theorem State.setRow_fn (s : State) (r : RowIx) (rb : RowBuffer) : (s.setRow r rb).fn = s.fn := by cases r <;> rfl
@[simp] theorem State.setRow_rowOffsets (s : State) (r : RowIx) (rb : RowBuffer) : (s.setRow r rb).rowOffsets = s.rowOffsets := by cases r <;> rfl
@[simp] theorem State.setRow_numLines (s : State) (r : RowIx) (rb : RowBuffer) : (s.setRow r rb).numLines = s.numLines := by cases r <;> rfl
@[simp] theorem State.setRow_ov (s : State) (r : RowIx) (rb : RowBuffer) : (s.setRow r rb).ov = s.ov := by cases r <;> rfl
@[simp] theorem State.setRow_clkLast (s : State) (r : RowIx) (rb : RowBuffer) : (s.setRow r rb).clkLast = s.clkLast := by cases r <;> rfl
@[simp] theorem State.setRow_bus (s : State) (r : RowIx) (rb : RowBuffer) : (s.setRow r rb).bus = s.bus := by cases r <;> rfl
@[simp] theorem State.setRow_refused (s : State) (r : RowIx) (rb : RowBuffer) : (s.setRow r rb).refused = s.refused := by cases r <;> rfl
@[simp] theorem State.setRow_refusal (s : State) (r : RowIx) (rb : RowBuffer) : (s.setRow r rb).refusal = s.refusal := by cases r <;> rfl
@[simp] theorem State.setRow_seq (s : State) (r : RowIx) (rb : RowBuffer) : (s.setRow r rb).seq = s.seq := by cases r <;> rfl
@[simp] theorem State.setRow_env (s : State) (r : RowIx) (rb : RowBuffer) : (s.setRow r rb).env = s.env := by cases r <;> rfl
@[simp] theorem State.setRow_inbox (s : State) (r : RowIx) (rb : RowBuffer) : (s.setRow r rb).inbox = s.inbox := by cases r <;> rfl
@[simp] theorem State.setRow_boots (s : State) (r : RowIx) (rb : RowBuffer) : (s.setRow r rb).boots = s.boots := by cases r <;> rfl

@[simp] theorem State.setRow_row_same (s : State) (r : RowIx) (rb : RowBuffer) : (s.setRow r rb).row r = rb := by cases r <;> rfl
@[simp] theorem State.setRow_row0_row1 (s : State) (rb : RowBuffer) : (s.setRow .row0 rb).row .row1 = s.row .row1 := rfl
@[simp] theorem State.setRow_row1_row0 (s : State) (rb : RowBuffer) : (s.setRow .row1 rb).row .row0 = s.row .row0 := rfl
@[simp] theorem State.setRow_row0 (s : State) (rb : RowBuffer) : (s.setRow .row0 rb).row0 = rb := rfl
@[simp] theorem State.setRow_row0_other (s : State) (rb : RowBuffer) : (s.setRow .row0 rb).row1 = s.row1 := rfl
@[simp] theorem State.setRow_row1 (s : State) (rb : RowBuffer) : (s.setRow .row1 rb).row1 = rb := rfl
@[simp] theorem State.setRow_row1_other (s : State) (rb : RowBuffer) : (s.setRow .row1 rb).row0 = s.row0 := rfl
@[simp] theorem State.row_row0 (s : State) : s.row .row0 = s.row0 := rfl
@[simp] theorem State.row_row1 (s : State) : s.row .row1 = s.row1 := rfl

/-! ### What an update leaves of `row` -/

@[simp] theorem State.feed_row (s : State) (evs : List Event) (r : RowIx) : (s.feed evs).row r = s.row r := by cases r <;> rfl
@[simp] theorem State.misfeed_row (s : State) (r : RowIx) : s.misfeed.row r = s.row r := by cases r <;> rfl
@[simp] theorem State.putBack_row (s : State) (p : Port) (bs : List Byte) (r : RowIx) : (s.putBack p bs).row r = s.row r := by
  cases bs <;> cases r <;> rfl
@[simp] theorem State.emit_row (s : State) (evs : List Event) (r : RowIx) : (s.emit evs).row r = s.row r := by cases r <;> rfl
@[simp] theorem State.setCtl_row (s : State) (c : Ctl) (r : RowIx) : (s.setCtl c).row r = s.row r := by cases r <;> rfl
@[simp] theorem State.setEnt_row (s : State) (e : Ent) (r : RowIx) : (s.setEnt e).row r = s.row r := by cases r <;> rfl
@[simp] theorem State.setOv_row (s : State) (o : Overlay) (r : RowIx) : (s.setOv o).row r = s.row r := by cases r <;> rfl
@[simp] theorem State.setClk_row (s : State) (k : Nat) (r : RowIx) : (s.setClk k).row r = s.row r := by cases r <;> rfl

end Sys2Proof.Machine
end

