-- ==== Sys2Proof/Laws/Calls.lean ====
section
/-! SUPPORT. What the preludes can do, once (spec 41_controller_driver.md R119, 42_scheduler.md R159, 60_exceptions.md R240, R250): the body runs exactly in
the states and on the operands it may run on; otherwise the call is refused, or the run has ended. -/

namespace Sys2Proof.Machine

/-! ### The preludes -/

theorem hostCall_open {op : Nat} {body : State → Result} {s : State} (h : s.callable) : hostCall op none body s = body s := by
  simp [hostCall, h.1, h.2]

theorem initialized_ready {op : Nat} {body : State → Result} {s : State} (h : s.ready) : initialized op none body s = body s := by
  simp [initialized, hostCall, h.1, h.2.1, h.2.2]

theorem hostCall_refused {op : Nat} {bad : Option RefCode} {body : State → Result} {s : State} (h : s.refused = true) :
    hostCall op bad body s = .fault .runEnded := by
  simp [hostCall, h]

theorem hostCall_bad {op : Nat} {c : RefCode} {body : State → Result} {s : State} (h : s.callable) :
    hostCall op (some c) body s = .next (s.mark c (some op)) := by
  simp [hostCall, h.1, h.2, refuse]

/-- A host call that goes on: its body ran on operands of their kinds, or it was refused. -/
theorem hostCall_next {op : Nat} {bad : Option RefCode} {body : State → Result} {s t : State} (h : hostCall op bad body s = .next t) :
    s.refused = false ∧ ((s.seq = .idle ∧ bad = none ∧ body s = .next t) ∨ ∃ c, t = s.mark c (some op)) := by
  unfold hostCall at h
  by_cases hr : s.refused = true
  · simp [hr] at h
  · refine ⟨by simpa using hr, ?_⟩
    simp only [hr] at h
    by_cases hq : s.seq = .idle
    · cases bad with
      | none => exact .inl ⟨hq, rfl, by simpa [hq] using h⟩
      | some c => exact .inr ⟨c, by simpa [hq, refuse] using h.symm⟩
    · exact .inr ⟨.reentrant, by simpa [hq, refuse] using h.symm⟩

/-- A call with the common prelude that goes on: its body ran in a ready state, or it was refused. -/
theorem initialized_next {op : Nat} {bad : Option RefCode} {body : State → Result} {s t : State}
    (h : initialized op bad body s = .next t) :
    s.refused = false ∧ ((s.ready ∧ bad = none ∧ body s = .next t) ∨ ∃ c, t = s.mark c (some op)) := by
  obtain ⟨hr, ⟨hq, hb, h⟩ | h⟩ := hostCall_next h
  · refine ⟨hr, ?_⟩
    by_cases hi : s.init = true
    · exact .inl ⟨⟨hr, hq, hi⟩, hb, by simpa [hi] using h⟩
    · exact .inr ⟨.uninit, by simpa [hi, refuse] using h.symm⟩
  · exact ⟨hr, .inr h⟩

/-- An internal primitive that goes on: it ran inside an operation, or the host had issued it. -/
theorem internal_next {op : Nat} {body : Bool → State → State} {s t : State} (h : internal op body s = .next t) :
    s.refused = false ∧
      ((∃ o k g, s.seq = .inOp o k g ∧
          t = { body g s with seq := .inOp o (k + ((body g s).bus.trace.length - s.bus.trace.length)) g })
        ∨ (s.seq = .idle ∧ t = s.mark .badOp (some op))) := by
  unfold internal at h
  by_cases hr : s.refused = true
  · simp [hr] at h
  · refine ⟨by simpa using hr, ?_⟩
    simp only [hr] at h
    cases hq : s.seq with
    | idle => exact .inr ⟨rfl, by simpa [hq, refuse] using h.symm⟩
    | inOp o k g => exact .inl ⟨o, k, g, rfl, by simpa [hq] using h.symm⟩

/-! ### The operand checks -/

@[simp] theorem firstBad_nil : firstBad [] = none := rfl
@[simp] theorem firstBad_none (cs : List (Option RefCode)) : firstBad (none :: cs) = firstBad cs := rfl
@[simp] theorem firstBad_some (c : RefCode) (cs : List (Option RefCode)) : firstBad (some c :: cs) = some c := rfl

theorem firstBad_cons_none {x : Option RefCode} {cs : List (Option RefCode)} :
    firstBad (x :: cs) = none ↔ x = none ∧ firstBad cs = none := by
  cases x <;> simp

theorem checkBelow_none {b n : Nat} : checkBelow b n = none ↔ n < b := by simp [checkBelow]
theorem checkU8_none {n : Nat} : checkU8 n = none ↔ n < 256 := checkBelow_none
theorem checkBool_none {n : Nat} : checkBool n = none ↔ n < 2 := checkBelow_none
theorem checkDir_none {n : Nat} : checkDir n = none ↔ n < 2 := checkBelow_none
theorem checkMode_none {n : Nat} : checkMode n = none ↔ n < 3 := checkBelow_none
theorem checkU32_none {n : Nat} : checkU32 n = none ↔ n < 4294967296 := checkBelow_none
theorem checkText_none {t : Text} : checkText t = none ↔ Text.wf t = true := by
  unfold checkText Text.wf
  split <;> simp_all
theorem checkBitmap_none {m : List Nat} : checkBitmap m = none ↔ Bitmap.wf m = true := by
  unfold checkBitmap Bitmap.wf
  split <;> simp_all

end Sys2Proof.Machine
end

