-- ==== Sys2Proof/Laws/Host.lean ====
section
/-! SUPPORT. What a host operation does when it runs, once for all of them: the fields it leaves (`hostFields`) and the events it emits
(`hostEvents`), with the inversion `exec_host_next` that every other lemma about host operations can cite instead of the meanings. -/

namespace Sys2Proof.Machine

/-! ### Rendering reads only the row and the offsets -/

/-- The events of rendering a RowBuffer whose row starts at `base` (42_scheduler.md R162). -/
def rowEvents (g : Bool) (base : Byte) (rb : RowBuffer) : List Event := cmdEvents g (ddaByte base.toNat) ++ textEvents g rb.window

theorem renderEvents_eq (s : State) (g : Bool) (r : RowIx) :
    s.renderEvents g r = rowEvents g (s.rowOffsets.at (rowNumber r)) (s.row r) := by
  simp [State.renderEvents, rowEvents]

/-! ### The fields and the events of an operation that runs -/

/-- A row after a tick at `now` with no overlay active (42_scheduler.md R169). -/
def RowBuffer.tick (now : Nat) (rb : RowBuffer) : RowBuffer :=
  if rb.eligible now then { rb.step with deadline := now + Config.stepInterval } else rb

/-- The state an operation that runs leaves, but for the bus side. -/
def hostFields : Instr → State → State
  | .opInitialize, s => s.initFields
  | .displayOn, s => s.setCtl { s.ctl with d := true }
  | .displayOff, s => s.setCtl { s.ctl with d := false }
  | .setCursorVisible v, s => s.setCtl { s.ctl with c := bitOf v }
  | .blinkOn, s => s.setCtl { s.ctl with b := true }
  | .blinkOff, s => s.setCtl { s.ctl with b := false }
  | .setScrollDirection d, s => s.setEnt { s.ent with id := bitOf d }
  | .setAutoscroll v, s => s.setEnt { s.ent with s := bitOf v }
  | .setBackground row text, s => s.setRow (clampRow row) ((s.row (clampRow row)).setText text)
  | .setBackgroundRows upper lower, s => (s.setRow .row0 (s.row0.setText upper)).setRow .row1 (s.row1.setText lower)
  | .setAnimationMode row mode, s => s.setRow (clampRow row) { s.row (clampRow row) with mode := modeOf mode }
  | .showOverlay _ _ dur, s => (s.setClk s.readClock).setOv { active := true, expiry := s.readClock + dur }
  | .print text ms, s =>
    if ms = 0 then s.setRow .row0 (s.row0.setText text)
    else (s.setClk s.readClock).setOv { active := true, expiry := s.readClock + ms }
  | .tick now, s =>
    if s.ov.active then
      if s.ov.expiry ≤ now then (s.setClk now).setOv { s.ov with active := false } else s.setClk now
    else ((s.setClk now).setRow .row0 (s.row0.tick now)).setRow .row1 (s.row1.tick now)
  | _, s => s

/-- The events an operation that runs emits under the gate value `g`. -/
def hostEvents (g : Bool) : Instr → State → List Event
  | .opInitialize, _ => initEvents
  | .clear, _ => cmdSlowEvents g clearByte
  | .home, _ => cmdSlowEvents g homeByte
  | .setCursor col row, s => cmdEvents g (ddaByte (s.cursorAddress col row))
  | .displayOn, s => cmdEvents g (ctlByte true s.ctl.c s.ctl.b)
  | .displayOff, s => cmdEvents g (ctlByte false s.ctl.c s.ctl.b)
  | .setCursorVisible v, s => cmdEvents g (ctlByte s.ctl.d (bitOf v) s.ctl.b)
  | .blinkOn, s => cmdEvents g (ctlByte s.ctl.d s.ctl.c true)
  | .blinkOff, s => cmdEvents g (ctlByte s.ctl.d s.ctl.c false)
  | .setScrollDirection d, s => cmdEvents g (entByte (bitOf d) s.ent.s)
  | .setAutoscroll v, s => cmdEvents g (entByte s.ent.id (bitOf v))
  | .writeGlyph b, _ => dataEvents g (BitVec.ofNat 8 b)
  | .defineGlyph slot bitmap, _ => cmdEvents g (cgaByte (clampSlot slot)) ++ textEvents g (bitmap.map (BitVec.ofNat 8))
  | .setBackground row text, s =>
    if s.ov.active then []
    else rowEvents g (s.rowOffsets.at (rowNumber (clampRow row))) ((s.row (clampRow row)).setText text)
  | .setBackgroundRows upper lower, s =>
    if s.ov.active then []
    else rowEvents g s.rowOffsets.o0 (s.row0.setText upper) ++ rowEvents g s.rowOffsets.o1 (s.row1.setText lower)
  | .setAnimationMode _ _, _ => []
  | .showOverlay t0 t1 _, s => s.overlayEvents g t0 t1
  | .print text ms, s =>
    if ms = 0 then
      if s.ov.active then [] else rowEvents g s.rowOffsets.o0 (s.row0.setText text)
    else s.overlayEvents g text []
  | .tick now, s =>
    if s.ov.active then
      if s.ov.expiry ≤ now then
        cmdSlowEvents g clearByte ++ rowEvents g s.rowOffsets.o0 s.row0 ++ rowEvents g s.rowOffsets.o1 s.row1
      else []
    else
      (if s.row0.eligible now then rowEvents g s.rowOffsets.o0 s.row0.step else [])
        ++ (if s.row1.eligible now then rowEvents g s.rowOffsets.o1 s.row1.step else [])
  | _, _ => []

/-- The gate value an operation emits under: INITIALIZE is not gated (10_state.md R37). -/
def hostGate (i : Instr) (s : State) : Bool := if i = .opInitialize then true else s.env.oe

/-- The time checks an operation passes before it writes anything (42_scheduler.md R159). -/
def timesPass : Instr → State → Prop
  | .showOverlay _ _ dur, s => s.readClock + dur < 4294967296
  | .print _ ms, s => ms = 0 ∨ s.readClock + ms < 4294967296
  | .tick now, s => s.clkLast ≤ now ∧ now + 450 < 4294967296
  | _, _ => True

/-! ### Steps towards the inversion -/

theorem emit_emit (s : State) (xs ys : List Event) : (s.emit xs).emit ys = s.emit (xs ++ ys) := by
  simp [State.emit, play_append]

theorem emit_nil (s : State) : s.emit [] = s := rfl

theorem setBackgroundBody_eq (r : RowIx) (text : Text) (s : State) :
    setBackgroundBody r text s =
      (s.setRow r ((s.row r).setText text)).emit
        (if s.ov.active then [] else rowEvents s.env.oe (s.rowOffsets.at (rowNumber r)) ((s.row r).setText text)) := by
  unfold setBackgroundBody
  simp only [State.setRow_ov, State.render, renderEvents_eq, State.setRow_env, State.setRow_rowOffsets, State.setRow_row_same]
  split <;> rfl

theorem tickRow_eq (now : Nat) (r : RowIx) (s : State) :
    s.tickRow now r =
      (s.setRow r ((s.row r).tick now)).emit
        (if (s.row r).eligible now then rowEvents s.env.oe (s.rowOffsets.at (rowNumber r)) (s.row r).step else []) := by
  unfold State.tickRow RowBuffer.tick
  split
  · simp only [State.render, renderEvents_eq, State.setRow_rowOffsets, State.setRow_row_same, State.emit_row]
    cases r <;> rfl
  · cases r <;> rfl

theorem tickWork_eq (now : Nat) (s : State) :
    (s.setClk now).tickWork now = (hostFields (.tick now) s).emit (hostEvents s.env.oe (.tick now) s) := by
  unfold State.tickWork hostFields hostEvents
  simp only [State.setClk_ov]
  by_cases ha : s.ov.active = true
  · simp only [ha, if_true]
    by_cases he : s.ov.expiry ≤ now
    · simp only [he, if_true, State.expire, renderEvents_eq]; rfl
    · simp only [he, if_false]; rfl
  · simp only [ha, tickRow_eq, Bool.false_eq_true, if_false]
    simp only [State.emit, State.setRow, State.setClk, State.row, play_append, rowNumber, RowOffsets.at]

/-- A host operation that goes on ran on operands of their kinds, in a state that lets it run, and left its fields with its events emitted; or it
was refused, and only the mark is new. -/
theorem exec_host_next {i : Instr} {s t : State} (hp : i.port = .host) (h : exec i s = .next t) :
    s.refused = false ∧
      ((∃ c, t = s.mark c (recordOp (encode i)))
        ∨ (s.seq = .idle ∧ i.wf = true ∧ s.init = decide (i ≠ .opInitialize) ∧ timesPass i s
            ∧ t = (hostFields i s).emit (hostEvents (hostGate i s) i s))) := by
  have hgate : hostGate i s = if i = .opInitialize then true else s.env.oe := rfl
  cases i <;> simp [Instr.port] at hp <;> simp only [reduceCtorEq, if_false, if_true] at hgate
  case opInitialize =>
    unfold exec execInitialize at h
    obtain ⟨hr, ⟨hq, -, h⟩ | ⟨c, h⟩⟩ := hostCall_next h
    · refine ⟨hr, ?_⟩
      by_cases hi : s.init = true
      · exact .inl ⟨.reinit, by simpa [hi, refuse, encode, recordOp] using h.symm⟩
      · refine .inr ⟨hq, rfl, by simpa using hi, trivial, ?_⟩
        simp only [hi] at h
        rw [hgate]
        exact (Host.Outcome.next.inj h).symm
    · exact ⟨hr, .inl ⟨c, h⟩⟩
  all_goals
    simp only [exec, execClear, execHome, execSetCursor, execDisplayOn, execDisplayOff, execSetCursorVisible, execBlinkOn, execBlinkOff,
      execSetScrollDirection, execSetAutoscroll, execWriteGlyph, execDefineGlyph, execShowOverlay, execPrint, execSetBackground,
      execSetBackgroundRows, execSetAnimationMode, execTick] at h
    obtain ⟨hr, ⟨hs, hb, h⟩ | ⟨c, h⟩⟩ := initialized_next h
    swap
    · exact ⟨hr, .inl ⟨c, h⟩⟩
  all_goals refine ⟨hr, ?_⟩; rw [hgate]
  case showOverlay t0 t1 dur =>
    simp only [firstBad_cons_none, checkText_none, checkU32_none] at hb
    unfold showOverlayBody at h
    split at h
    · exact .inl ⟨.timeRange, (Host.Outcome.next.inj h).symm⟩
    · rename_i hl
      refine .inr ⟨hs.2.1, by simp [Instr.wf, hb], by simpa using hs.2.2, by simpa [timesPass] using hl, ?_⟩
      exact (Host.Outcome.next.inj h).symm
  case print text ms =>
    simp only [firstBad_cons_none, checkText_none, checkU32_none] at hb
    split at h
    · rename_i hz
      refine .inr ⟨hs.2.1, by simp [Instr.wf, hb], by simpa using hs.2.2, .inl hz, ?_⟩
      rw [setBackgroundBody_eq] at h
      simpa [hostFields, hostEvents, hz, rowNumber, RowOffsets.at] using (Host.Outcome.next.inj h).symm
    · rename_i hz
      unfold showOverlayBody at h
      split at h
      · exact .inl ⟨.timeRange, (Host.Outcome.next.inj h).symm⟩
      · rename_i hl
        refine .inr ⟨hs.2.1, by simp [Instr.wf, hb], by simpa using hs.2.2, .inr (by simpa using hl), ?_⟩
        simp only [hostFields, hostEvents, hz, if_false]
        exact (Host.Outcome.next.inj h).symm
  case tick now =>
    simp only [firstBad_cons_none, checkU32_none] at hb
    unfold tickBody at h
    split at h
    · exact .inl ⟨.timeBackward, (Host.Outcome.next.inj h).symm⟩
    split at h
    · exact .inl ⟨.timeRange, (Host.Outcome.next.inj h).symm⟩
    · rename_i h1 h2
      refine .inr ⟨hs.2.1, by simp [Instr.wf, hb], by simpa using hs.2.2,
        ⟨by omega, Nat.lt_of_not_le h2⟩, ?_⟩
      rw [← tickWork_eq]
      exact (Host.Outcome.next.inj h).symm
  case setBackground row text =>
    simp only [firstBad_cons_none, checkText_none, checkU8_none] at hb
    refine .inr ⟨hs.2.1, by simp [Instr.wf, hb], by simpa using hs.2.2, trivial, ?_⟩
    rw [setBackgroundBody_eq] at h
    exact (Host.Outcome.next.inj h).symm
  case setBackgroundRows upper lower =>
    simp only [firstBad_cons_none, checkText_none] at hb
    refine .inr ⟨hs.2.1, by simp [Instr.wf, hb], by simpa using hs.2.2, trivial, ?_⟩
    rw [setBackgroundBody_eq, setBackgroundBody_eq] at h
    rw [← Host.Outcome.next.inj h]
    simp only [hostFields, hostEvents, State.emit, State.setRow, State.row, rowNumber, RowOffsets.at, ← play_append]
    split <;> rfl
  all_goals
    refine .inr ⟨hs.2.1, ?_, by simpa using hs.2.2, trivial, (Host.Outcome.next.inj h).symm⟩
    simp_all [Instr.wf, firstBad_cons_none, checkU8_none, checkBool_none, checkDir_none, checkMode_none, checkBitmap_none]

/-- A host operation on operands of their kinds, in a state that lets it run, runs: it answers a next state. -/
theorem exec_host_runs {i : Instr} {s : State} (hp : i.port = .host) (hr : s.refused = false) (hq : s.seq = .idle) (hw : i.wf = true)
    (hi : s.init = decide (i ≠ .opInitialize)) (ht : timesPass i s) :
    exec i s = .next ((hostFields i s).emit (hostEvents (hostGate i s) i s)) := by
  have hgate : hostGate i s = if i = .opInitialize then true else s.env.oe := rfl
  have key : ∃ t, exec i s = .next t ∧ t.refused = false := by
    cases i <;> simp [Instr.port] at hp <;> simp at hi
    all_goals
      simp only [exec, execInitialize, execClear, execHome, execSetCursor, execDisplayOn, execDisplayOff, execSetCursorVisible, execBlinkOn,
        execBlinkOff, execSetScrollDirection, execSetAutoscroll, execWriteGlyph, execDefineGlyph, execShowOverlay, execPrint,
        execSetBackground, execSetBackgroundRows, execSetAnimationMode, execTick, initialized, hostCall, hr, hq, hi]
    case showOverlay t0 t1 dur =>
      have hb : firstBad [checkText t0, checkText t1, checkU32 dur] = none := by
        simpa [Instr.wf, firstBad_cons_none, checkText_none, checkU32_none, and_assoc] using hw
      have hl : ¬ Config.timeLimit ≤ s.readClock + dur := Nat.not_le.mpr ht
      simp only [hb, showOverlayBody, hl, if_false]
      exact ⟨_, rfl, hr⟩
    case print text ms =>
      have hb : firstBad [checkText text, checkU32 ms] = none := by
        simpa [Instr.wf, firstBad_cons_none, checkText_none, checkU32_none] using hw
      simp only [hb]
      by_cases hz : ms = 0
      · simp only [hz, if_true, setBackgroundBody_eq]
        exact ⟨_, rfl, hr⟩
      · have hl : ¬ Config.timeLimit ≤ s.readClock + ms := Nat.not_le.mpr (ht.resolve_left hz)
        simp only [hz, showOverlayBody, hl, if_false]
        exact ⟨_, rfl, hr⟩
    case tick now =>
      have hb : firstBad [checkU32 now] = none := by simpa [Instr.wf, firstBad_cons_none, checkU32_none] using hw
      have h1 : ¬ now < s.clkLast := Nat.not_lt.mpr ht.1
      have h2 : ¬ Config.timeLimit ≤ now + Config.stepInterval := Nat.not_le.mpr ht.2
      simp only [hb, tickBody, h1, h2, if_false, tickWork_eq]
      refine ⟨_, rfl, ?_⟩
      simp only [hostFields, State.emit_refused]
      split
      · split <;> exact hr
      · exact hr
    case setBackground row text =>
      have hb : firstBad [checkU8 row, checkText text] = none := by
        simpa [Instr.wf, firstBad_cons_none, checkText_none, checkU8_none] using hw
      simp only [hb, setBackgroundBody_eq]
      exact ⟨_, rfl, by simpa using hr⟩
    case setBackgroundRows upper lower =>
      have hb : firstBad [checkText upper, checkText lower] = none := by
        simpa [Instr.wf, firstBad_cons_none, checkText_none] using hw
      simp only [hb, setBackgroundBody_eq]
      exact ⟨_, rfl, by simpa using hr⟩
    case setCursor c r =>
      have hb : firstBad [checkU8 c, checkU8 r] = none := by simpa [Instr.wf, firstBad_cons_none, checkU8_none] using hw
      simp only [hb]; exact ⟨_, rfl, hr⟩
    case setCursorVisible v =>
      have hb : firstBad [checkBool v] = none := by simpa [Instr.wf, firstBad_cons_none, checkBool_none] using hw
      simp only [hb]; exact ⟨_, rfl, hr⟩
    case setScrollDirection v =>
      have hb : firstBad [checkDir v] = none := by simpa [Instr.wf, firstBad_cons_none, checkDir_none] using hw
      simp only [hb]; exact ⟨_, rfl, hr⟩
    case setAutoscroll v =>
      have hb : firstBad [checkBool v] = none := by simpa [Instr.wf, firstBad_cons_none, checkBool_none] using hw
      simp only [hb]; exact ⟨_, rfl, hr⟩
    case writeGlyph v =>
      have hb : firstBad [checkU8 v] = none := by simpa [Instr.wf, firstBad_cons_none, checkU8_none] using hw
      simp only [hb]; exact ⟨_, rfl, hr⟩
    case defineGlyph k m =>
      have hb : firstBad [checkU8 k, checkBitmap m] = none := by
        simpa [Instr.wf, firstBad_cons_none, checkU8_none, checkBitmap_none] using hw
      simp only [hb]; exact ⟨_, rfl, hr⟩
    case setAnimationMode row mode =>
      have hb : firstBad [checkU8 row, checkMode mode] = none := by
        simpa [Instr.wf, firstBad_cons_none, checkU8_none, checkMode_none] using hw
      simp only [hb]; exact ⟨_, rfl, by simpa using hr⟩
    all_goals exact ⟨_, rfl, hr⟩
  obtain ⟨t, h, htr⟩ := key
  obtain ⟨-, ⟨c, h'⟩ | ⟨-, -, -, -, h'⟩⟩ := exec_host_next hp h
  · rw [h'] at htr; cases htr
  · rw [h, h']

/-! ### The internal primitives -/

/-- The events an internal primitive emits under the gate value `g`. -/
def seqEvents (g : Bool) : Instr → State → List Event
  | .transmit w, _ => transmitEvents g w
  | .nibble rs n, _ => nibbleEvents g rs n
  | .send rs v, _ => sendEvents g rs v
  | .renderRow r, s => s.renderEvents g r
  | _, _ => []

/-- The state an internal primitive leaves, but for the bus side and the sequencer. -/
def seqFields : Instr → State → State
  | .stepRow r, s => s.setRow r (s.row r).step
  | _, s => s

/-- What an internal primitive does: inside an operation its events and its field, outside of one the refusal. -/
theorem exec_seq {i : Instr} {s : State} (hp : i.port = .seq) (hr : s.refused = false) :
    exec i s =
      match s.seq with
      | .idle => .next (s.mark .badOp (recordOp (encode i)))
      | .inOp o k g => .next { (seqFields i s).emit (seqEvents g i s) with seq := .inOp o (k + (seqEvents g i s).length) g } := by
  cases i <;> simp [Instr.port] at hp
  all_goals
    simp only [exec, execTransmit, execNibble, execSend, execRenderRow, execStepRow, internal, hr, Bool.false_eq_true, if_false, refuse]
    cases s.seq
    · rfl
    · simp [seqFields, seqEvents, State.render, emit_nil]

end Sys2Proof.Machine
end

