-- ==== Sys2Proof/Laws/Panel.lean ====
section
/-! SUPPORT. How the controller takes what the block sends it, once: one nibble write is one strobe (spec 47_display_observer.md R213), and one controller
byte is one execution (R215), wherever the controller is at a byte boundary in 4-bit mode. -/

namespace Sys2Proof.Machine

/-! ### The fields of a bus byte -/

@[simp] theorem pack_rs (w : BusWord) : (pack w).getLsbD 7 = w.rs := by
  obtain ⟨rs, e, n⟩ := w
  revert rs e n; decide

@[simp] theorem pack_e (w : BusWord) : (pack w).getLsbD 5 = w.e := by
  obtain ⟨rs, e, n⟩ := w
  revert rs e n; decide

@[simp] theorem pack_n (w : BusWord) : (pack w).extractLsb' 1 4 = w.n := by
  obtain ⟨rs, e, n⟩ := w
  revert rs e n; decide

/-- The two nibbles of a byte, joined. -/
@[simp] theorem joinNibbles_split (v : Byte) : joinNibbles (hiNibble v) (loNibble v) = v := by
  revert v; decide

/-! ### One nibble write -/

/-- The controller without E, `t` µs later: what a strobe finds. -/
def Panel.settled (p : Panel) (t : Nat) : Panel := Panel.elapse t { p with lcd := { p.lcd with e := false } }

/-- One nibble write is exactly one strobe, whatever the level of E before it, and then the settle. -/
theorem replay_nibble (p : Panel) (rs : Bool) (n : Nibble) :
    p.replay (nibbleEvents true rs n) = (Panel.strobe rs n (p.settled 1)).elapse 100 := by
  have h1 : p.see (pack ⟨rs, true, n⟩) = { p with lcd := { p.lcd with e := true } } := by
    simp only [Panel.see, pack_e, Bool.not_true, Bool.and_false]
    rfl
  have h2 : ∀ q : Panel, q.lcd.e = true →
      q.see (pack ⟨rs, false, n⟩) = Panel.strobe rs n { q with lcd := { q.lcd with e := false } } := by
    intro q hq
    simp only [Panel.see, pack_e, pack_rs, pack_n, hq, Bool.not_false, Bool.and_self, if_true]
  simp only [nibbleEvents, transmitEvents, Config.tPwMin, Config.tNibMin, List.cons_append, List.nil_append, replay_cons,
    replay_nil, Panel.observe, h1]
  rw [h2 _ rfl]
  rfl

/-! ### One controller byte -/

/-- A byte's execution reads neither E nor the pending nibble, and leaves both. -/
theorem execByte_pending (rs : Bool) (v : Byte) (l : Lcd) (h : Nibble) :
    Lcd.execByte rs v { l with e := false, hi := h } = { Lcd.execByte rs v l with e := false, hi := h } := by
  cases rs
  · simp only [Lcd.execByte, Lcd.command, Bool.false_eq_true, if_false]
    repeat' split
    all_goals rfl
  · obtain ⟨sync, phase, hi, ac, tgt⟩ := l
    cases tgt <;> simp [Lcd.execByte, Lcd.data, Lcd.nextAC, Lcd.nextShift]

/-- Two handshake nibbles 0x3 in a byte, or one right after such a nibble: too soon (70_reset_and_hazards.md R277). -/
def brokenByte (rs : Bool) (v : Byte) (t : LcdTime) : Bool :=
  !rs && hiNibble v == 0x3 && ((decide (1 ≤ t.hs) && decide (t.since + 1 < Config.tInit1Min)) || loNibble v == 0x3)

/-- One controller byte, at a byte boundary of 4-bit mode, is one execution of it: the controller is busy with it for what the settle after the
second nibble leaves of its time, and its state is no longer determined where the byte came too soon. -/
theorem replay_byte (p : Panel) (rs : Bool) (v : Byte) (h : p.AtBoundary) :
    p.replay (sendEvents true rs v) =
      { lcd := Lcd.execByte rs v { p.lcd with e := false, hi := hiNibble v,
                                              undef := p.lcd.undef || decide (1 < p.time.busy) || brokenByte rs v p.time },
        time := { busy := execTime rs v - 100, since := 100, hs := if !rs && loNibble v == 0x3 then 1 else 0 } } := by
  obtain ⟨hsync, hphase, hhs⟩ := h
  obtain ⟨l, busy, since, hs⟩ := p
  simp only at hsync hphase hhs
  have hd : ∀ (n : Nibble) (b t h : Nat), h ≤ 2 → handshakeDone rs n ⟨b, t, h⟩ = false := by
    intro n b t h hh
    have : ¬ 3 ≤ h := by omega
    simp [handshakeDone, this]
  have hn : ∀ (n : Nibble) (b t h : Nat), h ≤ 1 → nextHs rs n ⟨b, t, h⟩ ≤ 2 := by
    intro n b t h hh
    unfold nextHs
    split
    · omega
    split
    · omega
    split
    · omega
    · exact Nat.le_trans (Nat.min_le_right _ _) (by simpa using hh)
  have hl : ∀ (n : Nibble) (b h : Nat), nextHs rs n ⟨b, 101, h⟩ = if !rs && n == 0x3 then 1 else 0 := by
    intro n b h
    unfold nextHs
    by_cases hc : (rs || n != 0x3) = true
    · have hc' : (!rs && n == 0x3) = false := by
        cases rs
        · simpa using hc
        · rfl
      rw [if_pos hc, hc']; rfl
    · have hc' : (!rs && n == 0x3) = true := by
        cases rs
        · simpa using hc
        · simp at hc
      rw [if_neg hc, hc']
      simp
  have hp : ∀ (n : Nibble) (b t h : Nat), decide (1 ≤ nextHs rs n ⟨b, t, h⟩) = (!rs && n == 0x3) := by
    intro n b t h
    unfold nextHs
    by_cases hc : (rs || n != 0x3) = true
    · rw [if_pos hc]; cases rs <;> simp_all
    · rw [if_neg hc]
      have hc' : (!rs && n == 0x3) = true := by cases rs <;> simp_all
      rw [hc']
      repeat' split
      all_goals simp
  have hk : ∀ (n : Nibble) (b t h : Nat), h ≤ 2 →
      handshakeBroken rs n ⟨b, t, h⟩ = (!rs && (n == 0x3 && decide (1 ≤ h) && decide (t < 4100))) := by
    intro n b t h hh
    have : ¬ 3 ≤ h := by omega
    simp [handshakeBroken, this]
  rw [sendEvents, replay_append, replay_nibble, replay_nibble]
  simp only [Panel.settled, Panel.elapse, Panel.strobe, hd _ _ _ _ (Nat.le_trans hhs (by omega)), hsync, hphase,
    Bool.false_eq_true, if_false, hd _ _ _ _ (hn _ _ _ _ hhs), Nat.zero_add, Panel.execByte, joinNibbles_split, hl, Nat.reduceAdd,
    hk _ _ _ _ (Nat.le_trans hhs (by omega)), hk _ _ _ _ (hn _ _ _ _ hhs), hp]
  congr 3
  rw [Bool.eq_iff_iff]
  simp only [brokenByte, Bool.or_eq_true, Bool.and_eq_true, decide_eq_true_eq, Config.tInit1Min]
  constructor
  · rintro ((((h | h) | ⟨h1, ⟨h2, h3⟩, h4⟩) | h) | ⟨h1, ⟨h2, h3, h4⟩, h5⟩)
    · exact .inl (.inl h)
    · exact .inl (.inr (by omega))
    · exact .inr ⟨⟨h1, h2⟩, .inl ⟨h3, h4⟩⟩
    · exact .inl (.inr (by omega))
    · exact .inr ⟨⟨h1, h4⟩, .inr h2⟩
  · rintro ((h | h) | ⟨⟨h1, h2⟩, ⟨h3, h4⟩ | h3⟩)
    · exact .inl (.inl (.inl (.inl h)))
    · exact .inl (.inl (.inl (.inr (by omega))))
    · exact .inl (.inl (.inr ⟨h1, ⟨h2, h3⟩, h4⟩))
    · exact .inr ⟨h1, ⟨h3, h1, h2⟩, by omega⟩

/-- A byte that does not begin with a handshake nibble, and finds the controller done with the last one, is executed and no more. -/
theorem replay_send (p : Panel) (rs : Bool) (v : Byte) (h : p.AtBoundary) (hbusy : p.time.busy ≤ 1) (hv : rs = true ∨ hiNibble v ≠ 0x3) :
    p.replay (sendEvents true rs v) =
      { lcd := Lcd.execByte rs v { p.lcd with e := false, hi := hiNibble v },
        time := { busy := execTime rs v - 100, since := 100, hs := if !rs && loNibble v == 0x3 then 1 else 0 } } := by
  have hb : ¬ 1 < p.time.busy := by omega
  have hk : brokenByte rs v p.time = false := by
    rcases hv with rfl | hv
    · rfl
    · simp only [brokenByte, show (hiNibble v == 0x3) = false from by simpa using hv, Bool.and_false, Bool.false_and]
  rw [replay_byte p rs v h, hk]
  simp [hb]

end Sys2Proof.Machine
end

