-- ==== Sys2Proof/Laws/Display.lean ====
section
/-! SUPPORT. What the block's event sequences make of the controller, once for each (spec 47_display_observer.md R213 to R220): the handshake, a byte, a
slow command, a text into DDRAM or CGRAM, a row, and clear with both rows. -/

namespace Sys2Proof.Machine

/-! ### The handshake -/

/-- A nibble 0x3 counts (47_display_observer.md R214). -/
theorem nextHs_pos (t : LcdTime) : 1 ≤ nextHs false 3 t := by
  unfold nextHs; simp only [Bool.false_or, bne_self_eq_false, Bool.false_eq_true, if_false]
  by_cases h : t.hs = 0 <;> by_cases h' : t.since < Config.tInit1Min <;> simp only [h, h', if_true, if_false] <;> omega
/-- A nibble 0x3 after its gap counts one more. -/
theorem nextHs_grows (t : LcdTime) (k : Nat) (h : k ≤ t.hs) (hk : 1 ≤ k) (hs : 4100 ≤ t.since) : min 3 (k + 1) ≤ nextHs false 3 t := by
  unfold nextHs; simp only [Bool.false_or, bne_self_eq_false, Bool.false_eq_true, if_false, Config.tInit1Min]
  rw [if_neg (by omega), if_neg (by omega)]; omega
/-- What a strobe other than 0x2 leaves of the timing. -/
theorem strobe_time (n : Nibble) (p : Panel) (hn : n ≠ 2) : (Panel.strobe false n p).time.since = 0 ∧ (Panel.strobe false n p).time.hs = nextHs false n p.time := by
    have : handshakeDone false n p.time = false := by
      have : (n == 2#4) = false := by simpa using hn
      simp only [handshakeDone, show (n == 0x2) = false from this]; simp
    unfold Panel.strobe
    rw [this]
    simp only [Bool.false_eq_true, if_false]
    split <;> simp [Panel.execByte]
/-- The last strobe of the handshake. -/
theorem strobe_handshakeDone (p : Panel) (h : handshakeDone false 2 p.time = true) : Panel.strobe false 2 p = 
    { lcd := { p.lcd with sync := .sync4, phase := .hi, dl := false, undef := false }, time := { busy := 0, since := 0, hs := 0 } } := by
  unfold Panel.strobe; rw [if_pos h]
/-- The four handshake nibbles with their gaps, from any state (47_display_observer.md R214). -/
theorem handshake_replay (p : Panel) (w0 w1 w2 : Nat) (h0 : 4100 ≤ w0) (h1 : 4100 ≤ w1) (h2 : 150 ≤ w2) :
    ∃ l : Lcd, p.replay (nibbleEvents true false 0x3 ++ [.wait w0] ++ nibbleEvents true false 0x3 ++ [.wait w1]
        ++ nibbleEvents true false 0x3 ++ [.wait w2] ++ nibbleEvents true false 0x2) =
      { lcd := { l with sync := .sync4, phase := .hi, dl := false, undef := false }, time := { busy := 0, since := 100, hs := 0 } } ∧ l.e = false := by
  have el : ∀ t (p : Panel), p.observe (.wait t) = p.elapse t := fun _ _ => rfl
  simp only [replay_append, replay_cons, replay_nil, el, replay_nibble]
  have s1 := strobe_time 3 (p.settled 1) (by decide)
  have t1 : 1 ≤ (Panel.strobe false 3 (p.settled 1)).time.hs := by rw [s1.2]; exact nextHs_pos _
  generalize Panel.strobe false 3 (p.settled 1) = p1 at *
  have s2 := strobe_time 3 (((p1.elapse 100).elapse w0).settled 1) (by decide)
  have t2 : 2 ≤ (Panel.strobe false 3 (((p1.elapse 100).elapse w0).settled 1)).time.hs := by
    rw [s2.2]; exact nextHs_grows _ 1 t1 (le_refl _) (by simp [Panel.settled, Panel.elapse, s1]; omega)
  generalize Panel.strobe false 3 (((p1.elapse 100).elapse w0).settled 1) = p2 at *
  have s3 := strobe_time 3 (((p2.elapse 100).elapse w1).settled 1) (by decide)
  have t3 : 3 ≤ (Panel.strobe false 3 (((p2.elapse 100).elapse w1).settled 1)).time.hs := by
    rw [s3.2]; exact nextHs_grows _ 2 t2 (by omega) (by simp [Panel.settled, Panel.elapse, s2]; omega)
  generalize Panel.strobe false 3 (((p2.elapse 100).elapse w1).settled 1) = p3 at *
  have : handshakeDone false 2 (((p3.elapse 100).elapse w2).settled 1).time = true := by
    simp [handshakeDone, Panel.settled, Panel.elapse, s3.1, t3]; omega
  rw [strobe_handshakeDone _ this]
  exact ⟨_, rfl, rfl⟩

/-! ### Bytes -/

/-- Executing a byte moves neither the nibble phase nor E. -/
theorem execByte_keeps (rs v) (l : Lcd) : (Lcd.execByte rs v l).sync = l.sync ∧ (Lcd.execByte rs v l).phase = l.phase ∧ (Lcd.execByte rs v l).e = l.e := by
  unfold Lcd.execByte Lcd.command Lcd.data
  repeat' split
  all_goals exact ⟨rfl, rfl, rfl⟩

/-- Ready to take a byte: at a byte boundary, done with the last one before the next strobe can come. -/
structure Panel.Receptive (p : Panel) : Prop where
  sync : p.lcd.sync = .sync4
  phase : p.lcd.phase = .hi
  busy : p.time.busy ≤ 1
  hs : p.time.hs ≤ 1

theorem Panel.Receptive.atBoundary {p : Panel} (h : p.Receptive) : p.AtBoundary := ⟨h.sync, h.phase, h.hs⟩
/-- A byte whose execution is over before the next can come (47_display_observer.md R215, R216). -/
theorem receptive_send {p : Panel} (h : Panel.Receptive p) (rs v) (ht : execTime rs v ≤ 101) (hv : rs = true ∨ hiNibble v ≠ 0x3) : Panel.Receptive (p.replay (sendEvents true rs v)) ∧
   (p.replay (sendEvents true rs v)).lcd = Lcd.execByte rs v { p.lcd with e := false, hi := hiNibble v } := by
  rw [replay_send p rs v h.atBoundary h.busy hv]
  refine ⟨⟨?_, ?_, ?_, ?_⟩, rfl⟩
  · simp [execByte_keeps, h.sync]
  · simp [execByte_keeps, h.phase]
  · simp; omega
  · simp; split <;> omega
/-- A data byte's time. -/
theorem execTime_data (v) : execTime true v = 37 := by simp [execTime]

/-- A text into DDRAM, left to right and without shift (47_display_observer.md R218, R222). -/
theorem text_ddram (t : List Byte) (p : Panel) (h : Panel.Receptive p) (hid : p.lcd.id = true) (hs : p.lcd.s = false) (htg : p.lcd.tgt = .ddram)
    (hw : Memory.wf Memory.ddramBlank p.lcd.ddram = true)
    (hac : p.lcd.ac.toNat + t.length < 0x28 ∨ 0x40 ≤ p.lcd.ac.toNat ∧ p.lcd.ac.toNat + t.length < 0x68) :
    ∃ q, q = p.replay (textEvents true t) ∧ Panel.Receptive q ∧ q.lcd.id = true ∧ q.lcd.s = false ∧ q.lcd.tgt = .ddram ∧ q.lcd.shift = p.lcd.shift ∧
      q.lcd.cgram = p.lcd.cgram ∧ q.lcd.undef = p.lcd.undef ∧ q.lcd.n = p.lcd.n ∧ Memory.wf Memory.ddramBlank q.lcd.ddram = true ∧
      q.time.busy ≤ (if t = [] then p.time.busy else 0) ∧
      ∀ a, Memory.read Memory.ddramBlank q.lcd.ddram a = if p.lcd.ac.toNat ≤ a ∧ a < p.lcd.ac.toNat + t.length then t[a - p.lcd.ac.toNat]?.getD 0
         else Memory.read Memory.ddramBlank p.lcd.ddram a := by
  induction t generalizing p with
  | nil => refine ⟨p, rfl, h, hid, hs, htg, rfl, rfl, rfl, rfl, hw, by simp, ?_⟩; intro a; rw [if_neg]; simp
  | cons b t ih =>
    have e : textEvents true (b :: t) = sendEvents true true b ++ textEvents true t := rfl
    obtain ⟨r1, l1⟩ := receptive_send h true b (by simp [execTime_data]) (.inl rfl)
    rw [e]
    simp only [replay_append]
    set p1 := p.replay (sendEvents true true b) with hp1
    have hb1 : p1.time.busy = 0 := by rw [hp1, replay_send p true b h.atBoundary h.busy (.inl rfl), execTime_data]
    have l1' : p1.lcd = { p.lcd with e := false, hi := hiNibble b, ddram := Memory.write Memory.ddramBlank p.lcd.ddram p.lcd.ac.toNat b, ac := p.lcd.ac + 1 } := by
      rw [l1]; simp [Lcd.execByte, Lcd.data, htg, Lcd.nextShift, hs, Lcd.nextAC, hid]
      simp at hac
      rw [if_neg, if_neg] <;> intro hh <;> rw [hh] at hac <;> simp at hac <;> omega
    have hac1 : p1.lcd.ac.toNat = p.lcd.ac.toNat + 1 := by
      rw [l1']; simp at hac ⊢; omega
    obtain ⟨q, hq, rq, q1, q2, q3, q4, q5, q6, q6', q7, qb, q8⟩ := ih p1 r1 (by simp [l1', hid]) (by simp [l1', hs]) (by simp [l1', htg])
      (by simp only [l1']; exact Memory.wf_write _ _ _ hw) (by rw [hac1]; simp at hac; omega)
    refine ⟨q, hq, rq, q1, q2, q3, by simp [q4, l1'], by simp [q5, l1'], by simp [q6, l1'], by simp [q6', l1'], q7, ?_, ?_⟩
    · simp; split at qb <;> omega
    · intro a
      rw [q8, hac1]
      have : Memory.read Memory.ddramBlank p1.lcd.ddram a = if a = p.lcd.ac.toNat then b else Memory.read Memory.ddramBlank p.lcd.ddram a := by
        rw [l1']; exact Memory.read_write _ _ _ _ hw
      rw [this]
      by_cases ha : a = p.lcd.ac.toNat
      · subst ha; simp
      · by_cases hb : p.lcd.ac.toNat + 1 ≤ a ∧ a < p.lcd.ac.toNat + 1 + t.length
        · rw [if_pos hb, if_pos (by simp; omega)]
          have : a - p.lcd.ac.toNat = (a - (p.lcd.ac.toNat + 1)) + 1 := by omega
          rw [this]; simp
        · rw [if_neg hb, if_neg ha, if_neg (by simp; omega)]

/-- A command byte. -/
theorem execByte_command {v : Byte} {l : Lcd} : Lcd.execByte false v l = l.command v := rfl

/-- An address command and a text of at most 16 bytes on a row (42_scheduler.md R162, R176). -/
theorem row_replay (r : RowIx) (t : List Byte) (hl : t.length ≤ 16) (p : Panel) (h : Panel.Receptive p) (hn : p.lcd.n = true) (hid : p.lcd.id = true) (hs : p.lcd.s = false)
    (hw : Memory.wf Memory.ddramBlank p.lcd.ddram = true) :
    ∃ q, q = p.replay (cmdEvents true (ddaByte (rowBase r)) ++ textEvents true t) ∧ Panel.Receptive q ∧ q.lcd.id = true ∧ q.lcd.s = false ∧ q.lcd.shift = p.lcd.shift ∧
      q.lcd.cgram = p.lcd.cgram ∧ q.lcd.undef = p.lcd.undef ∧ q.lcd.n = true ∧ Memory.wf Memory.ddramBlank q.lcd.ddram = true ∧
      q.time.busy = 0 ∧
      ∀ a, Memory.read Memory.ddramBlank q.lcd.ddram a = if rowBase r ≤ a ∧ a < rowBase r + t.length then t[a - rowBase r]?.getD 0
         else Memory.read Memory.ddramBlank p.lcd.ddram a := by
  have ht : execTime false (ddaByte (rowBase r)) = 37 := by cases r <;> decide
  obtain ⟨r1, l1⟩ := receptive_send h false (ddaByte (rowBase r)) (by omega) (.inr (by cases r <;> decide))
  have l2 : (p.replay (sendEvents true false (ddaByte (rowBase r)))).lcd = { p.lcd with e := false, hi := hiNibble (ddaByte (rowBase r)), ac := BitVec.ofNat 7 (rowBase r), tgt := .ddram } := by
    rw [l1, execByte_command]
    have h7 : (ddaByte (rowBase r)).getLsbD 7 = true := by cases r <;> decide
    have ha : (ddaByte (rowBase r)).setWidth 7 = BitVec.ofNat 7 (rowBase r) := by cases r <;> decide
    unfold Lcd.command
    rw [if_pos h7, ha]
    have hc : Lcd.hasCell { p.lcd with e := false, hi := hiNibble (ddaByte (rowBase r)) } (BitVec.ofNat 7 (rowBase r)) = true := by
      simp only [Lcd.hasCell, hn]; cases r <;> decide
    simp [Lcd.setDdram, hc]
  have hb : (p.replay (sendEvents true false (ddaByte (rowBase r)))).time.busy = 0 := by
    rw [replay_send p false _ h.atBoundary h.busy (.inr (by cases r <;> decide)), ht]
  simp only [replay_append, cmdEvents]
  generalize p.replay (sendEvents true false (ddaByte (rowBase r))) = p1 at *
  have hac : p1.lcd.ac.toNat = rowBase r := by rw [l2]; cases r <;> rfl
  obtain ⟨q, hq, rq, q1, q2, q3, q4, q5, q6, q6', q7, qb, q8⟩ := text_ddram t p1 r1 (by simp [l2, hid]) (by simp [l2, hs]) (by simp [l2])
     (by simp [l2, hw]) (by rw [hac]; cases r <;> simp [rowBase] <;> omega)
  refine ⟨q, hq, rq, q1, q2, by simp [q4, l2], by simp [q5, l2], by simp [q6, l2], by simp [q6', l2, hn], q7, ?_, ?_⟩
  · split at qb <;> omega
  · intro a; rw [q8, hac]; simp [l2]

/-- In step is ready to take a byte. -/
theorem synced_receptive {p : Panel} (h : p.Synced) : Panel.Receptive p := ⟨h.sync, h.phase, by simp [h.busy], h.hs⟩
/-- A window has 16 bytes (42_scheduler.md R163). -/
theorem window_length {rb : RowBuffer} (h : rb.ok) : rb.window.length = 16 := by
  simp only [RowBuffer.ok, Config.contentMax, Config.cols] at h; by_cases hl : 16 < rb.content.length <;> simp [RowBuffer.window, hl] <;> omega

/-- CMD_SLOW (40_bus_adapter.md R106). -/
theorem receptive_cmdSlow (p : Panel) (h : Panel.Receptive p) (v) (ht : execTime false v ≤ 2100) (hv : hiNibble v ≠ 0x3) :
   Panel.Receptive (p.replay (cmdSlowEvents true v)) ∧ (p.replay (cmdSlowEvents true v)).time.busy = 0 ∧ (p.replay (cmdSlowEvents true v)).lcd = Lcd.command v { p.lcd with e := false, hi := hiNibble v } := by
  have e : p.replay (cmdSlowEvents true v) = (p.replay (sendEvents true false v)).elapse 2000 := by
    simp only [cmdSlowEvents, cmdEvents, replay_append, replay_cons, replay_nil, Config.tClearMin]; rfl
  rw [e, replay_send p false v h.atBoundary h.busy (.inr hv)]
  have := execByte_keeps false v { p.lcd with e := false, hi := hiNibble v }
  refine ⟨⟨?_, ?_, ?_, ?_⟩, ?_, rfl⟩
  · exact this.1.trans h.sync
  · exact this.2.1.trans h.phase
  · simp [Panel.elapse]; omega
  · simp [Panel.elapse]; split <;> omega
  · simp [Panel.elapse]; omega

/-- The cells of a row, read one by one (47_display_observer.md R220). -/
theorem visible_eq (l : Lcd) (r : RowIx) (w : List Byte) (hs : l.shift = 0) (hw : w.length = 16) (h : ∀ i, i < 16 → Memory.read Memory.ddramBlank l.ddram (rowBase r + i) = w[i]?.getD 0) : l.visible r = w := by
  apply List.ext_getElem?
  intro i
  by_cases hi : i < 16
  · simp only [Lcd.visible, Config.cols, List.getElem?_map, List.getElem?_range hi, Option.map_some, Lcd.cell, hs]
    have : (i + 0) % 40 = i := by omega
    rw [this, h i hi, List.getElem?_eq_getElem (by omega)]; simp
  · rw [List.getElem?_eq_none (by simp [Lcd.visible]; omega), List.getElem?_eq_none (by omega)]

/-- A text padded with spaces, byte by byte. -/
theorem padded_getElem (t : List Byte) (i : Nat) (hi : i < 16) : (t ++ List.replicate (16 - t.length) (0x20 : Byte))[i]?.getD 0 = if i < t.length then t[i]?.getD 0 else 0x20 := by
  by_cases h : i < t.length
  · rw [if_pos h, List.getElem?_append_left h]
  · rw [if_neg h, List.getElem?_append_right (by omega), List.getElem?_replicate, if_pos (by omega)]; rfl
/-- Clear and then both rows, as an overlay and an expiry send them (42_scheduler.md R167, R170). -/
theorem clear_rows_replay (p : Panel) (h : p.Synced) (hs : p.lcd.s = false) (t0 t1 : List Byte) (h0 : t0.length ≤ 16) (h1 : t1.length ≤ 16) :
   ∃ q, q = p.replay (cmdSlowEvents true clearByte ++ (cmdEvents true (ddaByte (rowBase .row0)) ++ textEvents true t0) ++ (cmdEvents true (ddaByte (rowBase .row1)) ++ textEvents true t1)) ∧
     q.Synced ∧ q.Upright ∧ q.lcd.cgram = p.lcd.cgram ∧ q.lcd.undef = p.lcd.undef ∧ q.lcd.visible .row0 = t0 ++ List.replicate (16 - t0.length) 0x20 ∧ q.lcd.visible .row1 = t1 ++ List.replicate (16 - t1.length) 0x20 := by
  obtain ⟨r0, b0, l0⟩ := receptive_cmdSlow p (synced_receptive h) clearByte (by decide) (by decide)
  have l0' : (p.replay (cmdSlowEvents true clearByte)).lcd = Lcd.clear { p.lcd with e := false, hi := hiNibble clearByte } := by rw [l0]; rfl
  simp only [replay_append _ (cmdSlowEvents _ _ ++ _), replay_append _ (cmdSlowEvents _ _)]
  generalize p.replay (cmdSlowEvents true clearByte) = p0 at *
  obtain ⟨q, hq, rq, q1, q2, q4, q5, q6, q6', q7, qb, q8⟩ := row_replay .row0 t0 h0 p0 r0 (by simp [l0', Lcd.clear, h.lines]) (by simp [l0', Lcd.clear]) (by simp [l0', Lcd.clear, hs]) (by simp [l0', Lcd.clear, Memory.wf])
  rw [← hq]
  obtain ⟨q', hq', rq', q1', q2', q4', q5', q6', q6'', q7', qb', q8'⟩ := row_replay .row1 t1 h1 q rq q6' q1 q2 q7
  have hsh : q'.lcd.shift = 0 := by rw [q4', q4]; simp [l0', Lcd.clear]
  refine ⟨q', hq', ⟨rq'.sync, rq'.phase, q6'', qb', rq'.hs⟩, ⟨q1', q2', hsh⟩, by rw [q5', q5]; simp [l0', Lcd.clear], by rw [q6', q6]; simp [l0', Lcd.clear], ?_, ?_⟩
  · apply visible_eq _ _ _ hsh (by simp; omega)
    intro i hi
    rw [q8', if_neg (by simp [rowBase]; omega), q8]
    by_cases h : i < t0.length
    · rw [if_pos (by simp [rowBase]; omega), padded_getElem _ _ hi, if_pos h]; simp [rowBase]
    · rw [if_neg (by simp [rowBase]; omega), padded_getElem _ _ hi, if_neg h]; simp [l0', Lcd.clear, Memory.read, Memory.ddramBlank]
  · apply visible_eq _ _ _ hsh (by simp; omega)
    intro i hi
    rw [q8']
    by_cases h : i < t1.length
    · rw [if_pos (by simp [rowBase]; omega), padded_getElem _ _ hi, if_pos h]; simp [rowBase]
    · rw [if_neg (by simp [rowBase]; omega), q8, if_neg (by simp [rowBase]; omega), padded_getElem _ _ hi, if_neg h]; simp [l0', Lcd.clear, Memory.read, Memory.ddramBlank]

/-- A text into CGRAM (47_display_observer.md R218, R222). -/
theorem text_cgram (t : List Byte) (p : Panel) (h : Panel.Receptive p) (hid : p.lcd.id = true) (htg : p.lcd.tgt = .cgram) (hac : p.lcd.ac.toNat + t.length ≤ 64) (ha : p.lcd.ac.toNat < 64)
    (hw : Memory.wf Memory.cgramBlank p.lcd.cgram = true) :
    ∃ q, q = p.replay (textEvents true t) ∧ q.lcd.tgt = .cgram ∧ q.lcd.ddram = p.lcd.ddram ∧
      ∀ a, Memory.read Memory.cgramBlank q.lcd.cgram a = if p.lcd.ac.toNat ≤ a ∧ a < p.lcd.ac.toNat + t.length then (t[a - p.lcd.ac.toNat]?.getD 0).setWidth 5
         else Memory.read Memory.cgramBlank p.lcd.cgram a := by
  induction t generalizing p with
  | nil => refine ⟨p, rfl, htg, rfl, ?_⟩; intro a; rw [if_neg]; simp
  | cons b t ih =>
    have e : textEvents true (b :: t) = sendEvents true true b ++ textEvents true t := rfl
    obtain ⟨r1, l1⟩ := receptive_send h true b (by simp [execTime_data]) (.inl rfl)
    rw [e]
    simp only [replay_append]
    set p1 := p.replay (sendEvents true true b) with hp1
    have l1' : p1.lcd = { p.lcd with e := false, hi := hiNibble b, cgram := Memory.write Memory.cgramBlank p.lcd.cgram (p.lcd.ac.toNat % 64) (b.setWidth 5), ac := BitVec.ofNat 7 ((p.lcd.ac.toNat + 1) % 64) } := by
      rw [l1]; simp [Lcd.execByte, Lcd.data, htg, Lcd.nextAC, hid]
    have hac1 : p1.lcd.ac.toNat = (p.lcd.ac.toNat + 1) % 64 := by rw [l1']; simp; omega
    have hrd : ∀ a, Memory.read Memory.cgramBlank p1.lcd.cgram a = if a = p.lcd.ac.toNat then b.setWidth 5 else Memory.read Memory.cgramBlank p.lcd.cgram a := by
      intro a; rw [l1', Nat.mod_eq_of_lt ha]; exact Memory.read_write _ _ _ _ hw
    simp at hac
    cases t with
    | nil =>
      refine ⟨p1, by show p1 = p1.replay []; rw [replay_nil], by simp [l1', htg], by simp [l1'], ?_⟩
      intro a; rw [hrd]; simp
      by_cases h : a = p.lcd.ac.toNat
      · subst h; simp
      · rw [if_neg h, if_neg (by omega)]
    | cons c t =>
      simp at hac
      have hac2 : p1.lcd.ac.toNat = p.lcd.ac.toNat + 1 := by rw [hac1]; omega
      obtain ⟨q, hq, q3, q5, q8⟩ := ih p1 r1 (by simp [l1', hid]) (by simp [l1', htg]) (by simp; omega) (by omega)
        (by simp only [l1']; exact Memory.wf_write _ _ _ hw)
      refine ⟨q, hq, q3, by simp [q5, l1'], ?_⟩
      intro a
      rw [q8, hac2, hrd]
      by_cases ha : a = p.lcd.ac.toNat
      · subst ha; simp
      · by_cases hb : p.lcd.ac.toNat + 1 ≤ a ∧ a < p.lcd.ac.toNat + 1 + (c :: t).length
        · rw [if_pos hb, if_pos (by simp at *; omega)]
          have : a - p.lcd.ac.toNat = (a - (p.lcd.ac.toNat + 1)) + 1 := by omega
          rw [this]; simp
        · rw [if_neg hb, if_neg ha, if_neg (by simp at *; omega)]

end Sys2Proof.Machine
end

