-- ==== Sys2Proof/Laws/Gate.lean ====
section
/-! SUPPORT. How a host operation depends on the gate (spec 40_bus_adapter.md R102): its events are those with the gate open, each under the gate value;
its fields do not depend on it; and what every host operation leaves alone. -/

namespace Sys2Proof.Machine

theorem nibbleEvents_gate (g rs n) : nibbleEvents g rs n = (nibbleEvents true rs n).map (Event.gate g) := rfl
theorem sendEvents_gate (g rs v) : sendEvents g rs v = (sendEvents true rs v).map (Event.gate g) := rfl
theorem textEvents_gate (g) (t : List Byte) : textEvents g t = (textEvents true t).map (Event.gate g) := by
  induction t with
  | nil => rfl
  | cons b t ih => simp only [textEvents, List.flatMap_cons, List.map_append] at *; rw [ih]; rfl
theorem cmdSlowEvents_gate (g v) : cmdSlowEvents g v = (cmdSlowEvents true v).map (Event.gate g) := rfl
theorem rowEvents_gate (g o rb) : rowEvents g o rb = (rowEvents true o rb).map (Event.gate g) := by
  simp only [rowEvents, List.map_append, ← textEvents_gate]; rfl
theorem overlayEvents_gate (s : State) (g t0 t1) : s.overlayEvents g t0 t1 = (s.overlayEvents true t0 t1).map (Event.gate g) := by
  simp only [State.overlayEvents, State.overlayRowEvents, List.map_append, ← textEvents_gate]; rfl
/-- Every operation but INITIALIZE emits the same events under either gate value, gated or not. -/
theorem hostEvents_gate {i : Instr} (hn : i ≠ .opInitialize) (s : State) (g) : hostEvents g i s = (hostEvents true i s).map (Event.gate g) := by
  cases i <;> simp only [hostEvents]
  case opInitialize => exact absurd rfl hn
  case clear => rfl
  case home => rfl
  case setCursor => rfl
  case displayOn => rfl
  case displayOff => rfl
  case setCursorVisible => rfl
  case blinkOn => rfl
  case blinkOff => rfl
  case setScrollDirection => rfl
  case setAutoscroll => rfl
  case writeGlyph => rfl
  case defineGlyph => simp only [List.map_append, ← textEvents_gate]; rfl
  case showOverlay => exact overlayEvents_gate ..
  case print text ms =>
    by_cases h1 : ms = 0 <;> by_cases h2 : s.ov.active = true <;> simp only [h1, h2, if_true, if_false, Bool.false_eq_true, List.map_nil, ← rowEvents_gate, ← overlayEvents_gate]
  case setBackground => split <;> [rfl; exact rowEvents_gate ..]
  case setBackgroundRows => split <;> [rfl; simp only [List.map_append, ← rowEvents_gate]]
  case tick now =>
    have hc : cmdSlowEvents g clearByte = (cmdSlowEvents true clearByte).map (Event.gate g) := rfl
    by_cases h1 : s.ov.active = true
    · by_cases h2 : s.ov.expiry ≤ now
      · simp only [h1, h2, if_true, List.map_append, ← rowEvents_gate, hc]
      · simp only [h1, h2, if_true, if_false, List.map_nil]
    · by_cases h2 : s.row0.eligible now = true <;> by_cases h3 : s.row1.eligible now = true <;>
        simp only [h1, h2, h3, if_true, if_false, Bool.false_eq_true, List.map_nil, List.map_append, ← rowEvents_gate]
  all_goals rfl

/-- Under a closed gate every transmit is gated. -/
theorem allGated_gate (evs : List Event) : allGated (evs.map (Event.gate false)) = true := by
  induction evs with
  | nil => rfl
  | cons e evs ih => cases e <;> simpa [allGated, Event.gate] using ih

/-- The fields an operation leaves do not depend on the gate. -/
theorem hostFields_env (i : Instr) (s : State) (e : Env) (he : e.clock = s.env.clock) : hostFields i { s with env := e } = { hostFields i s with env := e } := by
  have : ({ s with env := e } : State).readClock = s.readClock := by simp [State.readClock, he]
  cases i <;> simp only [hostFields, this, State.initFields]
  all_goals try rfl
  case print => split <;> rfl
  case setBackground r t => generalize clampRow r = r; cases r <;> rfl
  case setAnimationMode r t => generalize clampRow r = r; cases r <;> rfl
  case tick => split <;> [split; skip] <;> rfl
/-- Nor do its events depend on where the gate value came from. -/
theorem hostEvents_env (g) (i : Instr) (s : State) (e : Env) : hostEvents g i { s with env := e } = hostEvents g i s := by
  cases i <;> rfl

/-- What the fields of every operation leave alone. -/
theorem hostFields_keeps (i : Instr) (s : State) : (hostFields i s).env = s.env ∧ (hostFields i s).bus = s.bus ∧ (hostFields i s).seq = s.seq ∧ (hostFields i s).refused = s.refused := by
  cases i <;> simp only [hostFields, State.initFields]
  all_goals try exact ⟨rfl, rfl, rfl, rfl⟩
  all_goals try exact ⟨trivial, trivial, trivial, trivial⟩
  case print => split <;> exact ⟨rfl, rfl, rfl, rfl⟩
  case setBackground r t => generalize clampRow r = r; cases r <;> exact ⟨rfl, rfl, rfl, rfl⟩
  case setAnimationMode r t => generalize clampRow r = r; cases r <;> exact ⟨rfl, rfl, rfl, rfl⟩
  case tick => split <;> [split; skip] <;> exact ⟨rfl, rfl, rfl, rfl⟩

end Sys2Proof.Machine
end

