-- ==== Sys2Proof/Laws/InStep.lean ====
section
/-! SUPPORT. The bytes the block sends after its handshake leave the controller at a byte boundary, done with its last byte (spec 41_controller_driver.md
R135, 47_display_observer.md R215, R216); and what the events of INITIALIZE make of any controller (70_reset_and_hazards.md R274). -/

namespace Sys2Proof.Machine

/-- A byte that keeps the two-line mode and is over in time keeps the controller in step. -/
theorem synced_send (p : Panel) (h : p.Synced) (rs v) (hc : (Lcd.execByte rs v { p.lcd with e := false, hi := hiNibble v }).n = true) (ht : execTime rs v ≤ 100)
    (hv : rs = true ∨ hiNibble v ≠ 0x3) :
   (p.replay (sendEvents true rs v)).Synced ∧ (p.replay (sendEvents true rs v)).lcd = Lcd.execByte rs v { p.lcd with e := false, hi := hiNibble v } := by
  have h1 := synced_receptive h
  rw [replay_send p rs v h1.atBoundary h1.busy hv]
  have hx := execByte_keeps rs v { p.lcd with e := false, hi := hiNibble v }
  refine ⟨⟨hx.1.trans h.sync, hx.2.1.trans h.phase, hc, ?_, ?_⟩, rfl⟩
  · simp; omega
  · simp; split <;> omega

/-- The commands the block sends after its function set (47_display_observer.md R231). -/
def blockCommand (v : Byte) : Bool := v == 0x01 || v == 0x02 || (decide (4 ≤ v.toNat) && decide (v.toNat < 0x10)) || (decide (0x40 ≤ v.toNat))
theorem command_keeps_n (v : Byte) (h : blockCommand v = true) (l : Lcd) : (Lcd.command v l).n = l.n := by
  have h5 : v.getLsbD 7 = true ∨ v.getLsbD 6 = true ∨ v.getLsbD 5 = false := by revert v; decide
  unfold Lcd.command
  repeat' split
  all_goals try rfl
  simp_all
theorem execTime_blockCommand (v : Byte) (h : blockCommand v = true) : execTime false v = if v = 0x01 ∨ v = 0x02 then 1520 else 37 := by
  revert v; decide
theorem hiNibble_blockCommand (v : Byte) (h : blockCommand v = true) : hiNibble v ≠ 0x3 := by revert v; decide
theorem data_keeps_n (v : Byte) (l : Lcd) : (Lcd.data v l).n = l.n := by unfold Lcd.data; split <;> rfl

theorem synced_data (p : Panel) (h : p.Synced) (v) : (p.replay (dataEvents true v)).Synced := (synced_send p h true v (by simp [Lcd.execByte, data_keeps_n, h.lines]) (by simp [execTime]) (.inl rfl)).1
theorem synced_cmd (p : Panel) (h : p.Synced) (v) (hv : blockCommand v = true) (h1 : v ≠ 1) (h2 : v ≠ 2) : (p.replay (cmdEvents true v)).Synced :=
  (synced_send p h false v (by simp [Lcd.execByte, command_keeps_n v hv, h.lines]) (by rw [execTime_blockCommand v hv, if_neg (by rintro (h | h); exact h1 h; exact h2 h)]; omega) (.inr (hiNibble_blockCommand v hv))).1
theorem synced_cmdSlow (p : Panel) (h : p.Synced) (v) (hv : v = 1 ∨ v = 2) : (p.replay (cmdSlowEvents true v)).Synced := by
  obtain ⟨a, b, c⟩ := receptive_cmdSlow p (synced_receptive h) v (by rcases hv with rfl | rfl <;> decide) (by rcases hv with rfl | rfl <;> decide)
  refine ⟨a.sync, a.phase, ?_, b, a.hs⟩
  rw [c, command_keeps_n v (by rcases hv with rfl | rfl <;> decide)]; exact h.lines
theorem synced_text (p : Panel) (h : p.Synced) (t : List Byte) : (p.replay (textEvents true t)).Synced := by
  induction t generalizing p with
  | nil => exact h
  | cons b t ih => simp only [textEvents, List.flatMap_cons, replay_append] at *; exact ih _ (synced_data p h b)
theorem blockCommand_dda (n) : blockCommand (ddaByte n) = true ∧ ddaByte n ≠ 1 ∧ ddaByte n ≠ 2 := by
  have : ∀ b : Byte, blockCommand (0x80 ||| b) = true ∧ (0x80 ||| b) ≠ 1 ∧ (0x80 ||| b) ≠ 2 := by decide
  exact this _
theorem synced_row (p : Panel) (h : p.Synced) (b rb) : (p.replay (rowEvents true b rb)).Synced := by
  rw [rowEvents, replay_append]; exact synced_text _ (synced_cmd _ h _ (blockCommand_dda _).1 (blockCommand_dda _).2.1 (blockCommand_dda _).2.2) _
theorem synced_overlay (p : Panel) (h : p.Synced) (s : State) (t0 t1) : (p.replay (s.overlayEvents true t0 t1)).Synced := by
  simp only [State.overlayEvents, State.overlayRowEvents, replay_append]
  exact synced_text _ (synced_cmd _ (synced_text _ (synced_cmd _ (synced_cmdSlow _ h _ (.inl rfl)) _ (blockCommand_dda _).1 (blockCommand_dda _).2.1 (blockCommand_dda _).2.2) _) _ (blockCommand_dda _).1 (blockCommand_dda _).2.1 (blockCommand_dda _).2.2) _
/-- The events of INITIALIZE, from any controller (70_reset_and_hazards.md R274). -/
theorem init_replay (p : Panel) : (p.replay initEvents).Synced ∧ (p.replay initEvents).Upright ∧ (p.replay initEvents).lcd.ddram = [] ∧ (p.replay initEvents).lcd.ac = 0 ∧
   (p.replay initEvents).lcd.tgt = .ddram ∧ (p.replay initEvents).lcd.undef = false ∧ (p.replay initEvents).lcd.d = true ∧ (p.replay initEvents).lcd.c = false ∧ (p.replay initEvents).lcd.b = false := by
  have e : initEvents = [.wait 40000] ++ ((nibbleEvents true false 0x3 ++ [.wait 4100] ++ nibbleEvents true false 0x3 ++ [.wait 4100]
        ++ nibbleEvents true false 0x3 ++ [.wait 150] ++ nibbleEvents true false 0x2) ++ (sendEvents true false 0x28 ++ (sendEvents true false 0x0C ++ (cmdSlowEvents true 0x01 ++ sendEvents true false 0x06)))) := by decide
  rw [e, replay_append, replay_append]
  obtain ⟨l, hl, he⟩ := handshake_replay (p.replay [.wait 40000]) 4100 4100 150 (by omega) (by omega) (by omega)
  rw [hl]
  simp only [replay_append _ (sendEvents _ _ _), replay_append _ (cmdSlowEvents _ _)]
  set q0 : Panel := { lcd := { l with sync := .sync4, phase := .hi, dl := false, undef := false }, time := { busy := 0, since := 100, hs := 0 } } with hq0
  have r0 : Panel.Receptive q0 := ⟨rfl, rfl, by simp [hq0], by simp [hq0]⟩
  obtain ⟨r1, l1⟩ := receptive_send r0 false 0x28 (by decide) (.inr (by decide))
  have l1' : (q0.replay (sendEvents true false 0x28)).lcd = { q0.lcd with e := false, hi := 2, dl := false, n := true, f := false } := l1
  generalize q0.replay (sendEvents true false 0x28) = q1 at *
  obtain ⟨r2, l2⟩ := receptive_send r1 false 0x0C (by decide) (.inr (by decide))
  have l2' : (q1.replay (sendEvents true false 0x0C)).lcd = { q1.lcd with e := false, hi := 0, d := true, c := false, b := false } := l2
  generalize q1.replay (sendEvents true false 0x0C) = q2 at *
  obtain ⟨r3, b3, l3⟩ := receptive_cmdSlow q2 r2 0x01 (by decide) (by decide)
  have l3' : (q2.replay (cmdSlowEvents true 0x01)).lcd = Lcd.clear { q2.lcd with e := false, hi := 0 } := l3
  generalize q2.replay (cmdSlowEvents true 0x01) = q3 at *
  obtain ⟨r4, l4⟩ := receptive_send r3 false 0x06 (by decide) (.inr (by decide))
  have l4' : (q3.replay (sendEvents true false 0x06)).lcd = { q3.lcd with e := false, hi := 0, id := true, s := false } := l4
  have b4 : (q3.replay (sendEvents true false 0x06)).time.busy = 0 := by
    rw [replay_send q3 false _ r3.atBoundary r3.busy (.inr (by decide))]; rfl
  generalize q3.replay (sendEvents true false 0x06) = q4 at *
  refine ⟨⟨r4.sync, r4.phase, ?_, b4, r4.hs⟩, ⟨?_, ?_, ?_⟩, ?_, ?_, ?_, ?_, ?_, ?_, ?_⟩ <;> simp [l4', l3', l2', l1', Lcd.clear, hq0]

/-- Gated events keep the controller in step. -/
theorem synced_gated (p : Panel) (h : p.Synced) (evs : List Event) (hg : allGated evs = true) : (p.replay evs).Synced := by
  induction evs generalizing p with
  | nil => exact h
  | cons e evs ih =>
    rcases e with ⟨b, _ | _⟩ | t
    · exact ih p h (by simpa [allGated] using hg)
    · simp [allGated] at hg
    · exact ih _ ⟨h.sync, h.phase, h.lines, by simp [Panel.observe, Panel.elapse, h.busy], h.hs⟩ (by simpa [allGated] using hg)

end Sys2Proof.Machine
end

