-- ==== Sys2Proof/Laws/Inv.lean ====
section
/-! SUPPORT. What keeps the parts of the invariant (`State.Inv`): the RowBuffers (spec 10_state.md R31, 42_scheduler.md R178), the controller's memories, and
the emitting of events. -/

namespace Sys2Proof.Machine

theorem Panel.ok_execByte (rs v) (p : Panel) (h : p.ok) : (Panel.execByte rs v p).ok := by
  obtain ⟨h1, h2, h3, h4, h5⟩ := h
  have key : ∀ l : Lcd, (⟨l, p.time⟩ : Panel).ok → (⟨Lcd.execByte rs v l, p.time⟩ : Panel).ok := by
    intro l ⟨h1, h2, h3, h4, h5⟩
    unfold Lcd.execByte
    split
    · unfold Lcd.data
      split
      · refine ⟨Memory.wf_write _ _ _ h1, Memory.all_write (fun k => decide (k < 128)) _ _ _ (by have := l.ac.isLt; simp; omega) h2, h3, h4, ?_⟩
        simp only [Lcd.nextShift]; split <;> omega
      · refine ⟨h1, h2, Memory.wf_write _ _ _ h3, Memory.all_write (fun k => decide (k < 64)) _ _ _ (by simp; omega) h4, h5⟩
    · unfold Lcd.command
      repeat' split
      all_goals first
        | exact ⟨h1, h2, h3, h4, h5⟩
        | exact ⟨rfl, rfl, h3, h4, by simp [Lcd.clear]⟩
        | exact ⟨h1, h2, h3, h4, by simp [Lcd.home]⟩
  exact key p.lcd ⟨h1, h2, h3, h4, h5⟩
theorem Panel.ok_strobe (rs n) (p : Panel) (h : p.ok) : (Panel.strobe rs n p).ok := by
  unfold Panel.strobe
  split
  · exact h
  · dsimp only
    split
    · exact h
    · exact h
    · exact Panel.ok_execByte _ _ _ h
theorem Panel.ok_see (b) (p : Panel) (h : p.ok) : (p.see b).ok := by
  unfold Panel.see; split
  · exact Panel.ok_strobe _ _ _ h
  · exact h
theorem Panel.ok_replay (evs) (p : Panel) (h : p.ok) : (p.replay evs).ok := by
  induction evs generalizing p with
  | nil => exact h
  | cons e evs ih =>
    refine ih _ ?_
    rcases e with ⟨b, _ | _⟩ | t
    · exact h
    · exact Panel.ok_see _ _ h
    · exact h

theorem RowBuffer.ok_setText (rb : RowBuffer) (t : Text) (h : rb.ok) : (rb.setText t).ok := by
  obtain ⟨h1, h2, h3, h4⟩ := h
  refine ⟨by simp [RowBuffer.setText, trunc], ?_, ?_, h4⟩ <;> simp [RowBuffer.setText, trunc] ; omega
theorem RowBuffer.ok_step (rb : RowBuffer) (h : rb.ok) : (rb.step).ok := by
  obtain ⟨h1, h2, h3, h4⟩ := h
  simp only [Config.cols, Config.contentMax] at *
  unfold RowBuffer.step
  by_cases hl : 16 < rb.content.length
  · simp only [hl, if_true]
    have := h2 hl
    cases hm : rb.mode
    · exact ⟨h1, h2, h3, h4⟩
    · have hb : rb.bounceOffset + 16 ≤ rb.content.length := by
        simp only [RowBuffer.bounceOffset, RowBuffer.bounceDir, RowBuffer.maxOffset]
        simp only [Config.cols]
        have h7 : ¬ rb.content.length - 16 ≤ 0 := by omega
        have h8 : rb.offset ≤ rb.content.length - 16 := by omega
        cases rb.dir <;> by_cases h5 : rb.content.length - 16 ≤ rb.offset <;> by_cases h6 : rb.offset = 0 <;> simp only [h5, h6, h7, and_self, and_true, if_true, if_false, reduceCtorEq, and_false] <;> omega
      exact ⟨h1, fun _ => hb, fun h => absurd hl (by simp [RowBuffer.bounceStep] at h; omega), h4⟩
    · refine ⟨h1, fun _ => ?_, fun h => absurd hl (by simp [RowBuffer.loopStep] at h; omega), h4⟩
      show (if rb.content.length - 16 ≤ rb.offset then 0 else rb.offset + 1) + 16 ≤ rb.content.length
      split <;> omega
  · simp only [hl, if_false]; exact ⟨h1, h2, h3, h4⟩
theorem RowBuffer.ok_tick (now) (rb : RowBuffer) (h : rb.ok) (hn : now + 450 < 4294967296) : (rb.tick now).ok := by
  unfold RowBuffer.tick; split
  · obtain ⟨h1, h2, h3, h4⟩ := RowBuffer.ok_step rb h
    exact ⟨h1, h2, h3, hn⟩
  · exact h
theorem State.readClock_lt (s : State) (h : s.Inv) : s.readClock < 4294967296 := by
  have h1 := h.times.1; have h2 := s.env.clock.isLt
  simp only [State.readClock, Config.timeLimit] at *; omega

theorem inv_bus {s : State} (h : s.Inv) (b : Bus) (hi : b.idle) (hp : b.panel.ok) : ({ s with bus := b } : State).Inv :=
  ⟨h.row0, h.row1, h.times, h.layout, h.mark, hi, hp⟩
theorem inv_emit {s : State} (h : s.Inv) (evs) : (s.emit evs).Inv :=
  inv_bus h _ (play_idle _ _ h.lines) (by rw [play_panel]; exact Panel.ok_replay _ _ h.panel)

theorem inv_mark {s : State} (h : s.Inv) (c op) : (s.mark c op).Inv := ⟨h.row0, h.row1, h.times, h.layout, rfl, h.lines, h.panel⟩

end Sys2Proof.Machine
end

