-- ==== Sys2Proof/Laws/PerInstr.lean ====
section
/-! SUPPORT. Statements made for every instruction, one lemma per constructor. `TableRow`: the first word of an instruction's encoding lies in
its row of spec/opcode_table.json. -/

namespace Sys2Proof.Laws.TableRow

/-- The instruction's first word, as the table numbers it, has the row's `match` bits under the row's `mask`. -/
def Statement (i : Instr) : Prop := i.tableWord &&& i.tableRow.2 = i.tableRow.1

theorem opInitialize : Statement .opInitialize := by
  simp [Statement, Instr.tableWord, Instr.tableRow, Instr.port, encode]
theorem clear : Statement .clear := by
  simp [Statement, Instr.tableWord, Instr.tableRow, Instr.port, encode]
theorem home : Statement .home := by
  simp [Statement, Instr.tableWord, Instr.tableRow, Instr.port, encode]
theorem setCursor (col row : Nat) : Statement (.setCursor col row) := by
  simp [Statement, Instr.tableWord, Instr.tableRow, Instr.port, encode]
theorem displayOn : Statement .displayOn := by
  simp [Statement, Instr.tableWord, Instr.tableRow, Instr.port, encode]
theorem displayOff : Statement .displayOff := by
  simp [Statement, Instr.tableWord, Instr.tableRow, Instr.port, encode]
theorem setCursorVisible (v : Nat) : Statement (.setCursorVisible v) := by
  simp [Statement, Instr.tableWord, Instr.tableRow, Instr.port, encode]
theorem blinkOn : Statement .blinkOn := by
  simp [Statement, Instr.tableWord, Instr.tableRow, Instr.port, encode]
theorem blinkOff : Statement .blinkOff := by
  simp [Statement, Instr.tableWord, Instr.tableRow, Instr.port, encode]
theorem setScrollDirection (d : Nat) : Statement (.setScrollDirection d) := by
  simp [Statement, Instr.tableWord, Instr.tableRow, Instr.port, encode]
theorem setAutoscroll (v : Nat) : Statement (.setAutoscroll v) := by
  simp [Statement, Instr.tableWord, Instr.tableRow, Instr.port, encode]
theorem writeGlyph (b : Nat) : Statement (.writeGlyph b) := by
  simp [Statement, Instr.tableWord, Instr.tableRow, Instr.port, encode]
theorem defineGlyph (slot : Nat) (bitmap : List Nat) : Statement (.defineGlyph slot bitmap) := by
  simp [Statement, Instr.tableWord, Instr.tableRow, Instr.port, encode]
theorem showOverlay (t0 t1 : Text) (dur : Nat) : Statement (.showOverlay t0 t1 dur) := by
  simp [Statement, Instr.tableWord, Instr.tableRow, Instr.port, encode]
theorem print (text : Text) (timeoutMs : Nat) : Statement (.print text timeoutMs) := by
  simp [Statement, Instr.tableWord, Instr.tableRow, Instr.port, encode]
theorem setBackground (row : Nat) (text : Text) : Statement (.setBackground row text) := by
  simp [Statement, Instr.tableWord, Instr.tableRow, Instr.port, encode]
theorem setBackgroundRows (upper lower : Text) : Statement (.setBackgroundRows upper lower) := by
  simp [Statement, Instr.tableWord, Instr.tableRow, Instr.port, encode]
theorem setAnimationMode (row mode : Nat) : Statement (.setAnimationMode row mode) := by
  simp [Statement, Instr.tableWord, Instr.tableRow, Instr.port, encode]
theorem tick (now : Nat) : Statement (.tick now) := by
  simp [Statement, Instr.tableWord, Instr.tableRow, Instr.port, encode]
theorem transmit (word : BusWord) : Statement (.transmit word) := by
  simp [Statement, Instr.tableWord, Instr.tableRow, Instr.port, encode]
theorem nibble (rs : Bool) (n : Nibble) : Statement (.nibble rs n) := by
  simp [Statement, Instr.tableWord, Instr.tableRow, Instr.port, encode]
theorem send (rs : Bool) (v : Byte) : Statement (.send rs v) := by
  simp [Statement, Instr.tableWord, Instr.tableRow, Instr.port, encode]
theorem renderRow (r : RowIx) : Statement (.renderRow r) := by
  simp [Statement, Instr.tableWord, Instr.tableRow, Instr.port, encode]
theorem stepRow (r : RowIx) : Statement (.stepRow r) := by
  simp [Statement, Instr.tableWord, Instr.tableRow, Instr.port, encode]
theorem cmdClearDisplay : Statement .cmdClearDisplay := by
  unfold Statement; decide
theorem cmdReturnHome (x : Bool) : Statement (.cmdReturnHome x) := by
  unfold Statement
  revert x; decide
theorem cmdEntryModeSet (i s : Bool) : Statement (.cmdEntryModeSet i s) := by
  unfold Statement
  revert i s; decide
theorem cmdDisplayControl (d c b : Bool) : Statement (.cmdDisplayControl d c b) := by
  unfold Statement
  revert d c b; decide
theorem cmdCursorDisplayShift (s r : Bool) (x : BitVec 2) : Statement (.cmdCursorDisplayShift s r x) := by
  unfold Statement
  revert s r x; decide
theorem cmdFunctionSet (l n f : Bool) (x : BitVec 2) : Statement (.cmdFunctionSet l n f x) := by
  unfold Statement
  revert l n f x; decide
theorem cmdSetCgramAddress (a : BitVec 6) : Statement (.cmdSetCgramAddress a) := by
  unfold Statement
  revert a; decide
theorem cmdSetDdramAddress (a : BitVec 7) : Statement (.cmdSetDdramAddress a) := by
  unfold Statement
  revert a; decide
theorem dataWrite (d : Byte) : Statement (.dataWrite d) := by
  unfold Statement
  revert d; decide
theorem handshakeNibble8bit : Statement .handshakeNibble8bit := by
  simp [Statement, Instr.tableWord, Instr.tableRow, Instr.port, encode]
theorem handshakeNibble4bit : Statement .handshakeNibble4bit := by
  simp [Statement, Instr.tableWord, Instr.tableRow, Instr.port, encode]
theorem busByte (r e : Bool) (n : Nibble) : Statement (.busByte r e n) := by
  unfold Statement
  revert r e n; decide

end Sys2Proof.Laws.TableRow
end

