-- ==== Sys2Proof/Laws/Steps.lean ====
section
/-! SUPPORT. What a step can do, once: the inversion `step_next`, in terms of the input that was taken (spec 60_exceptions.md R263; log entry 2). -/

namespace Sys2Proof.Machine

/-- The state in which a record's instruction runs: the record is taken and its environment is in place. -/
def State.taken (s : State) (env : Env) (rest : List Input) : State := { s with env := env, inbox := rest }

/-- What a record that goes on did. Of the block: its instruction ran, or the record was refused. Of a larger system: a frame of it ran, in the
state with the bytes behind the frame put back; or a frame without a row reached the controller; or the bytes are no frame. -/
inductive Took (p : Port) (bytes : List Byte) (s t : State) : Prop where
  | called (hp : p = .host ∨ p = .seq) (i : Instr) (hd : decode p bytes = .ok (i, [])) (hq : p = .host → s.seq = .idle)
      (he : exec i s = .next t)
  | refusedCall (hp : p = .host ∨ p = .seq) (c : RefCode) (ht : t = s.mark c (recordOp bytes))
  | nothing (hp : p ≠ .host ∧ p ≠ .seq) (ht : t = s)
  | frame (hp : p ≠ .host ∧ p ≠ .seq) (n : Nat) (i : Instr) (rest : List Byte) (hd : decode p (bytes.take n) = .ok (i, rest))
      (he : exec i (s.putBack p (bytes.drop n)) = .next t)
  | onLine (hp : p ≠ .host ∧ p ≠ .seq) (n : Nat) (evs : List Event) (ht : t = (s.putBack p (bytes.drop n)).feed evs)
      (he : (∃ rs n, evs = nibbleEvents true rs n) ∨ evs = sendEvents true false 0x00 ∨ ∃ b, evs = [.xmit b true])
  | ill (hp : p ≠ .host ∧ p ≠ .seq) (n : Nat) (ht : noFrame (s.putBack p (bytes.drop n)) = .next t)

theorem fetchLine_next {n : Nat} {p : Port} {bytes : List Byte} {s t : State} (hp : p ≠ .host ∧ p ≠ .seq)
    (h : (match fetchLine n p bytes s with | .run i u => exec i u | .ends r => r) = .next t) : Took p bytes s t := by
  unfold fetchLine at h
  by_cases he : bytes.isEmpty = true
  · simp only [he, if_true] at h; exact .nothing hp (Host.Outcome.next.inj h).symm
  simp only [he, Bool.false_eq_true, if_false] at h
  cases hd : decode p (bytes.take n) with
  | ok r => simp only [hd] at h; exact .frame hp n r.1 r.2 hd h
  | error e =>
    cases e <;> simp only [hd] at h
    case noCommand => exact .onLine hp n _ (Host.Outcome.next.inj h).symm (.inr (.inl rfl))
    case plainNibble rs x => exact .onLine hp n _ (Host.Outcome.next.inj h).symm (.inl ⟨rs, x, rfl⟩)
    case notBusByte b => exact .onLine hp n _ (Host.Outcome.next.inj h).symm (.inr (.inr ⟨b, rfl⟩))
    all_goals exact .ill hp n h

theorem fetchSeq_next {bytes : List Byte} {s t : State}
    (h : (match fetchSeq bytes s with | .run i u => exec i u | .ends r => r) = .next t) : Took .seq bytes s t := by
  unfold fetchSeq at h
  cases hd : decode .seq bytes with
  | ok r =>
    obtain ⟨i, rest⟩ := r
    cases rest with
    | nil => simp only [hd] at h; exact .called (.inr rfl) i hd (fun hh => nomatch hh) h
    | cons b bs => simp only [hd] at h; exact .refusedCall (.inr rfl) _ (Host.Outcome.next.inj h).symm
  | error e => simp only [hd] at h; exact .refusedCall (.inr rfl) _ (Host.Outcome.next.inj h).symm

/-- A record that goes on. -/
theorem fetchRecord_next {p : Port} {bytes : List Byte} {s t : State}
    (h : (match fetchRecord p bytes s with | .run i u => exec i u | .ends r => r) = .next t) : s.refused = false ∧ Took p bytes s t := by
  unfold fetchRecord at h
  by_cases hr : s.refused = true
  · simp [hr] at h
  refine ⟨by simpa using hr, ?_⟩
  simp only [hr, Bool.false_eq_true, if_false] at h
  cases p
  case host =>
    simp only [fetchHost] at h
    by_cases hq : s.seq = .idle
    · simp only [hq, ne_eq, not_true, if_false] at h
      cases hd : decode .host bytes with
      | ok r =>
        obtain ⟨i, rest⟩ := r
        cases rest with
        | nil => simp only [hd] at h; exact .called (.inl rfl) i hd (fun _ => hq) h
        | cons b bs => simp only [hd] at h; exact .refusedCall (.inl rfl) _ (Host.Outcome.next.inj h).symm
      | error e => simp only [hd] at h; exact .refusedCall (.inl rfl) _ (Host.Outcome.next.inj h).symm
    · simp only [hq, ne_eq, not_false_eq_true, if_true] at h
      exact .refusedCall (.inl rfl) _ (Host.Outcome.next.inj h).symm
  case seq => exact fetchSeq_next h
  all_goals exact fetchLine_next (by decide) h

/-- What a step that goes on did, by the input it took. -/
inductive Stepped (s t : State) : Prop where
  | waited (hi : s.inbox = []) (ht : t = s)
  | paused (d : Nat) (rest : List Input) (hi : s.inbox = .pause d :: rest) (ht : t = ({ s with inbox := rest } : State).feed [.wait d])
  | reset (rest : List Input) (hi : s.inbox = .firmwareReset :: rest) (ht : t = ({ s with inbox := rest } : State).firmwareReset)
  | took (p : Port) (env : Env) (bytes : List Byte) (rest : List Input) (hi : s.inbox = .record p env bytes :: rest)
      (hr : s.refused = false) (ht : Took p bytes (s.taken env rest) t)

theorem step_next {s t : State} (h : step s = .next t) : Stepped s t := by
  unfold step fetch at h
  cases hi : s.inbox with
  | nil => simp only [hi] at h; exact .waited hi (Host.Outcome.next.inj h).symm
  | cons x rest =>
    cases x with
    | pause d => simp only [hi] at h; exact .paused d rest hi (Host.Outcome.next.inj h).symm
    | firmwareReset => simp only [hi] at h; exact .reset rest hi (Host.Outcome.next.inj h).symm
    | record p env bytes =>
      simp only [hi] at h
      obtain ⟨hr, ht⟩ := fetchRecord_next (s := s.taken env rest) h
      exact .took p env bytes rest hi hr ht

end Sys2Proof.Machine
end

