-- ==== Sys2Proof/Laws/Trace.lean ====
section
/-! SUPPORT. Reading a trace back, once (spec 30_encoding.md R92): how the bus bytes, the nibble writes, the controller bytes and the intervals of two
traces in a row follow from those of each; and what the block's event sequences read back as. -/

namespace Sys2Proof.Machine

/-! ### Two traces in a row -/

theorem xmitBytes_append (a b : List Event) : xmitBytes (a ++ b) = xmitBytes a ++ xmitBytes b := by
  induction a with
  | nil => rfl
  | cons e a ih => cases e <;> simp [xmitBytes, ih]

theorem pairNibbles_append {xs ys : List Byte} {a b : List (Bool × Nibble)} (hx : pairNibbles xs = some a) (hy : pairNibbles ys = some b) :
    pairNibbles (xs ++ ys) = some (a ++ b) := by
  induction xs using pairNibbles.induct generalizing a with
  | case1 => simp [pairNibbles] at hx; subst hx; simpa using hy
  | case2 => simp [pairNibbles] at hx
  | case3 x y bs wa wb hwb hwa hc ns hns ih =>
    simp only [pairNibbles, hwa, hwb, hc, if_true] at hx
    simp only [List.cons_append, pairNibbles, hwa, hwb, hc, if_true, hns] at hx ⊢
    cases hx; rw [ih hns]; rfl
  | case4 x y bs wa wb hwb hwa hc hns ih => simp only [pairNibbles, hwa, hwb, hc, if_true, hns] at hx; simp at hx
  | case5 x y bs wa wb hwb hwa hc => simp only [pairNibbles, hwa, hwb, hc] at hx; simp at hx
  | case6 x y bs h =>
    unfold pairNibbles at hx
    split at hx
    · rename_i h1 h2; exact absurd h2 (by intro hh; exact h _ _ h1 hh)
    · cases hx

theorem pairNibbles_length {xs : List Byte} {a : List (Bool × Nibble)} (hx : pairNibbles xs = some a) : xs.length = 2 * a.length := by
  induction xs using pairNibbles.induct generalizing a with
  | case1 => simp [pairNibbles] at hx; simp [hx]
  | case2 => simp [pairNibbles] at hx
  | case3 x y bs wa wb hwb hwa hc ns hns ih =>
    simp only [pairNibbles, hwa, hwb, hc, if_true, hns] at hx
    cases hx; simp [ih hns]; omega
  | case4 x y bs wa wb hwb hwa hc hns ih => simp only [pairNibbles, hwa, hwb, hc, if_true, hns] at hx; simp at hx
  | case5 x y bs wa wb hwb hwa hc => simp only [pairNibbles, hwa, hwb, hc] at hx; simp at hx
  | case6 x y bs h =>
    unfold pairNibbles at hx
    split at hx
    · rename_i h1 h2; exact absurd h2 (by intro hh; exact h _ _ h1 hh)
    · cases hx

theorem pairBytes_append {xs ys : List (Bool × Nibble)} {a b : List (Bool × Byte)} (hx : pairBytes xs = some a) (hy : pairBytes ys = some b) :
    pairBytes (xs ++ ys) = some (a ++ b) := by
  induction xs using pairBytes.induct generalizing a with
  | case1 => simp [pairBytes] at hx; subst hx; simpa using hy
  | case2 => simp [pairBytes] at hx
  | case3 h l ns hc bs hbs ih =>
    simp only [List.cons_append, pairBytes, hc, if_true, hbs] at hx ⊢
    cases hx; rw [ih hbs]; rfl
  | case4 h l ns hc hbs ih => simp only [pairBytes, hc, if_true, hbs] at hx; cases hx
  | case5 h l ns hc => simp only [pairBytes, hc] at hx; simp at hx

theorem pairBytes_length {xs : List (Bool × Nibble)} {a : List (Bool × Byte)} (hx : pairBytes xs = some a) : xs.length = 2 * a.length := by
  induction xs using pairBytes.induct generalizing a with
  | case1 => simp [pairBytes] at hx; simp [hx]
  | case2 => simp [pairBytes] at hx
  | case3 h l ns hc bs hbs ih =>
    simp only [pairBytes, hc, if_true, hbs] at hx
    cases hx; simp [ih hbs]; omega
  | case4 h l ns hc hbs ih => simp only [pairBytes, hc, if_true, hbs] at hx; cases hx
  | case5 h l ns hc => simp only [pairBytes, hc] at hx; simp at hx

/-! ### Intervals -/

theorem gaps_length (w : Nat) (tr : List Event) : (gaps w tr).length = (xmitBytes tr).length + 1 := by
  induction tr generalizing w with
  | nil => rfl
  | cons e tr ih => cases e <;> simp [gaps, xmitBytes, ih]

theorem strobeGaps_append (a b : List Nat) : strobeGaps (a ++ b) = strobeGaps a ++ strobeGaps b := by simp [strobeGaps]

/-- The least intervals of a trace with more controller bytes. -/
theorem leastGaps_append (cs ds : List (Bool × Byte)) : leastGaps (cs ++ ds) = leastGaps cs ++ strobeGaps (ds.flatMap byteSettles) := by
  simp [leastGaps, strobeGaps]

/-- What holds of all intervals holds of those up to the last bus byte. -/
theorem keepsGaps_dropLast {rs gs : List Nat} (h : keepsGaps rs gs = true) : keepsGaps rs gs.dropLast = true := by
  induction rs generalizing gs with
  | nil => rfl
  | cons r rs ih =>
    cases gs with
    | nil => rfl
    | cons g gs =>
      cases gs with
      | nil => rfl
      | cons g' gs =>
        simp only [keepsGaps, Bool.and_eq_true, List.dropLast_cons_cons] at h ⊢
        exact ⟨h.1, ih h.2⟩

/-- More events after a trace that keeps its intervals, and its settle `r` after the last byte among them. -/
theorem keepsGaps_append {req more : List Nat} {r w : Nat} {tr evs : List Event} (hl : (gaps w tr).length = req.length + 1)
    (h : keepsGaps (req ++ [r]) (gaps w tr) = true) (he : ∀ w', r ≤ w' → keepsGaps (r :: more) (gaps w' evs) = true) :
    keepsGaps (req ++ r :: more) (gaps w (tr ++ evs)) = true := by
  induction tr generalizing w req with
  | nil =>
    cases req with
    | nil => exact he w (by simpa [gaps, keepsGaps] using h)
    | cons a req => simp [gaps] at hl
  | cons e tr ih =>
    cases e with
    | wait t => exact ih hl h
    | xmit b g =>
      cases req with
      | nil => simp [gaps, gaps_length] at hl
      | cons a req =>
        simp only [gaps, List.cons_append, keepsGaps, Bool.and_eq_true] at h ⊢
        exact ⟨h.1, ih (by simpa [gaps] using hl) h.2⟩

/-! ### What the block's events read back as -/

/-- Whole controller bytes: the events pair into them, and hold the waits before each bus byte and after the last one. -/
structure Sends (evs : List Event) (cs : List (Bool × Byte)) : Prop where
  closed : (xmitBytes evs).any (fun b => (unpack b).isNone) = false
  pairs : ∃ ns, pairNibbles (xmitBytes evs) = some ns ∧ pairBytes ns = some cs
  keeps : ∀ r w, r ≤ w → keepsGaps (r :: strobeGaps (cs.flatMap byteSettles)) (gaps w evs) = true

theorem Sends.length {evs : List Event} {cs : List (Bool × Byte)} (h : Sends evs cs) : (xmitBytes evs).length = 4 * cs.length := by
  obtain ⟨ns, h1, h2⟩ := h.pairs
  rw [pairNibbles_length h1, pairBytes_length h2]; omega

theorem strobeGaps_bytes_length (cs : List (Bool × Byte)) : (strobeGaps (cs.flatMap byteSettles)).length = 4 * cs.length := by
  induction cs with
  | nil => rfl
  | cons c cs ih => simp only [List.flatMap_cons, strobeGaps_append, List.length_append, ih]; simp [strobeGaps, byteSettles]; omega

theorem Sends.append {a b : List Event} {x y : List (Bool × Byte)} (h : Sends a x) (h' : Sends b y) : Sends (a ++ b) (x ++ y) := by
  obtain ⟨n, h1, h2⟩ := h.pairs
  obtain ⟨m, h3, h4⟩ := h'.pairs
  refine ⟨by rw [xmitBytes_append, List.any_append, h.closed, h'.closed]; rfl,
    ⟨n ++ m, by rw [xmitBytes_append]; exact pairNibbles_append h1 h3, pairBytes_append h2 h4⟩, ?_⟩
  intro r w hw
  rw [List.flatMap_append, strobeGaps_append]
  have hk := h.keeps r w hw
  have hl : (gaps w a).length = (r :: strobeGaps (x.flatMap byteSettles)).dropLast.length + 1 := by
    rw [gaps_length, h.length, List.length_dropLast, List.length_cons, strobeGaps_bytes_length]; omega
  have hs := List.dropLast_append_getLast (l := r :: strobeGaps (x.flatMap byteSettles)) (by simp)
  rw [← hs] at hk
  have := keepsGaps_append hl hk (more := strobeGaps (y.flatMap byteSettles)) (evs := b) (fun w' hw' => h'.keeps _ w' hw')
  rw [← List.cons_append, ← hs, List.append_assoc]
  exact this

theorem unpack_pack (w : BusWord) : unpack (pack w) = some w := by obtain ⟨a, b, c⟩ := w; revert a b c; decide

theorem Sends.nil : Sends [] [] := ⟨rfl, ⟨[], rfl, rfl⟩, fun r w h => by simpa [strobeGaps, gaps, keepsGaps] using h⟩

/-- One controller byte that is neither clear nor home (40_bus_adapter.md R105). -/
theorem Sends.send (g rs : Bool) (v : Byte) (h : rs = true ∨ (v ≠ clearByte ∧ v ≠ homeByte)) : Sends (sendEvents g rs v) [(rs, v)] := by
  have hx : xmitBytes (sendEvents g rs v) =
    [pack ⟨rs, true, hiNibble v⟩, pack ⟨rs, false, hiNibble v⟩, pack ⟨rs, true, loNibble v⟩, pack ⟨rs, false, loNibble v⟩] := rfl
  have hs : byteSettles (rs, v) = [100, 100] := by
    rcases h with rfl | ⟨h1, h2⟩
    · rfl
    · simp [byteSettles, h1, h2]
  refine ⟨by rw [hx]; simp [unpack_pack],
    ⟨[(rs, hiNibble v), (rs, loNibble v)], by rw [hx]; simp [pairNibbles, unpack_pack], by simp [pairBytes]⟩, ?_⟩
  intro r w hw
  simp [hs, strobeGaps, sendEvents, nibbleEvents, transmitEvents, gaps, keepsGaps, hw]

/-- Clear or home with its settle (40_bus_adapter.md R106). -/
theorem Sends.slow (g : Bool) (v : Byte) (h : v = clearByte ∨ v = homeByte) : Sends (cmdSlowEvents g v) [(false, v)] := by
  rcases h with rfl | rfl
  all_goals
    refine ⟨by cases g <;> rfl, ⟨_, by cases g <;> rfl, by cases g <;> rfl⟩, ?_⟩
    intro r w hw
    simp [byteSettles, strobeGaps, cmdSlowEvents, cmdEvents, sendEvents, nibbleEvents, transmitEvents, gaps, keepsGaps, hw]

/-- A text (40_bus_adapter.md R106). -/
theorem Sends.text (g : Bool) (t : List Byte) : Sends (textEvents g t) (t.map (true, ·)) := by
  induction t with
  | nil => exact .nil
  | cons b t ih => exact (Sends.send g true b (.inl rfl)).append ih

end Sys2Proof.Machine
end

