-- ==== Sys2Proof/Machine/Assembler.lean ====
section
/-! DEFINITION. The assembler syntax and the pseudo-instructions (spec 30_encoding.md R89, R90): one line of program text, as a list of characters, to
the host operations it stands for. It checks the form of a line; whether an operand is of its kind the machine checks (R88). -/

namespace Sys2Proof.Machine

/-! ### Pseudo-instructions (30_encoding.md R90) -/

/-- The pseudo-instructions. -/
inductive Pseudo where
  | cursorOn
  | cursorOff
  | autoscrollOn
  | autoscrollOff
  | display (v : Nat)
  | blink (v : Nat)
  | writeString (s : Text)
  | printBg (s : Text)
  deriving DecidableEq, Repr

/-- The host operations a pseudo-instruction stands for (30_encoding.md R90). -/
def Pseudo.expand : Pseudo → List Instr
  | .cursorOn => [.setCursorVisible 1]
  | .cursorOff => [.setCursorVisible 0]
  | .autoscrollOn => [.setAutoscroll 1]
  | .autoscrollOff => [.setAutoscroll 0]
  | .display v => if v = 1 then [.displayOn] else [.displayOff]
  | .blink v => if v = 1 then [.blinkOn] else [.blinkOff]
  | .writeString s => s.map (fun b => .writeGlyph b.toNat)
  | .printBg s => [.print s 0]

/-! ### Tokens (30_encoding.md R89) -/

/-- Why a line is rejected. -/
inductive AsmError where
  /-- A character that begins no token. -/
  | badCharacter (code : Nat)
  /-- A text without its closing quote, or that ends inside an escape. -/
  | openText
  /-- An escape other than quote, backslash or two hexadecimal digits not 00. -/
  | badEscape
  /-- A character without an ASCII code in a text. -/
  | notAscii (code : Nat)
  /-- Commas, brackets and operands in an order the syntax does not have. -/
  | badForm
  /-- A mnemonic that names no host operation and no pseudo-instruction. -/
  | unknownMnemonic
  /-- Operands that are not those of the mnemonic. -/
  | badOperands
  deriving DecidableEq, Repr

/-- A token: a word (mnemonic, number or name), a text, or a mark. -/
inductive Token where
  | word (cs : List Char)
  | text (t : Text)
  | comma
  | openBracket
  | closeBracket
  deriving DecidableEq, Repr

/-- The lexer between two characters: between tokens, in a word (its characters reversed), in a text (its bytes reversed), or in an escape. -/
inductive Lex where
  | between
  | inWord (rev : List Char)
  | inText (rev : List Byte)
  | escape (rev : List Byte)
  | hexFirst (rev : List Byte)
  | hexSecond (rev : List Byte) (d : Nat)
  deriving DecidableEq, Repr

/-- A hexadecimal digit's value. -/
def hexDigit (c : Char) : Option Nat :=
  if 48 ≤ c.toNat ∧ c.toNat ≤ 57 then some (c.toNat - 48)
  else if 65 ≤ c.toNat ∧ c.toNat ≤ 70 then some (c.toNat - 55)
  else if 97 ≤ c.toNat ∧ c.toNat ≤ 102 then some (c.toNat - 87)
  else none

/-- A character of a mnemonic, number or name. -/
def wordChar (c : Char) : Bool :=
  (decide (48 ≤ c.toNat) && decide (c.toNat ≤ 57)) || (decide (65 ≤ c.toNat) && decide (c.toNat ≤ 90))
    || (decide (97 ≤ c.toNat) && decide (c.toNat ≤ 122)) || decide (c.toNat = 95)

/-- What a character between two tokens begins: a token in progress, a mark, or nothing (space, tab). Codes: space 32, tab 9, quote 34,
comma 44, brackets 91 and 93. The programs of 95_test_vectors.md write the clock reading and the gate of a call behind it, as `@2000` and
`OE=0` (P2, P5). The form of 30_encoding.md R89 has no place for either: they are no operands but the inputs of the call (10_state.md R36,
R37), which come with its record as `Env`, and a line that carries one is rejected here (`badCharacter`; DESIGN CHOICE, log entry 26). -/
def lexStart (c : Char) : Except AsmError (Lex × List Token) :=
  if c.toNat = 32 ∨ c.toNat = 9 then .ok (.between, [])
  else if c.toNat = 34 then .ok (.inText [], [])
  else if c.toNat = 44 then .ok (.between, [.comma])
  else if c.toNat = 91 then .ok (.between, [.openBracket])
  else if c.toNat = 93 then .ok (.between, [.closeBracket])
  else if wordChar c then .ok (.inWord [c], [])
  else .error (.badCharacter c.toNat)

/-- One character of a line that is no comment's start: the lexer after it and the tokens it completes. Codes: quote 34, backslash 92,
x 120. -/
def lexChar (st : Lex) (c : Char) : Except AsmError (Lex × List Token) :=
  match st with
  | .between => lexStart c
  | .inWord rev =>
    if wordChar c then .ok (.inWord (c :: rev), [])
    else
      match lexStart c with
      | .ok (st, ts) => .ok (st, .word rev.reverse :: ts)
      | .error e => .error e
  | .inText rev =>
    if c.toNat = 34 then .ok (.between, [.text rev.reverse])
    else if c.toNat = 92 then .ok (.escape rev, [])
    else if c.toNat < 128 then .ok (.inText (BitVec.ofNat 8 c.toNat :: rev), [])
    else .error (.notAscii c.toNat)
  | .escape rev =>
    if c.toNat = 34 ∨ c.toNat = 92 then .ok (.inText (BitVec.ofNat 8 c.toNat :: rev), [])
    else if c.toNat = 120 then .ok (.hexFirst rev, [])
    else .error .badEscape
  | .hexFirst rev =>
    match hexDigit c with
    | some d => .ok (.hexSecond rev d, [])
    | none => .error .badEscape
  | .hexSecond rev d =>
    match hexDigit c with
    | some e => if 16 * d + e = 0 then .error .badEscape else .ok (.inText (BitVec.ofNat 8 (16 * d + e) :: rev), [])
    | none => .error .badEscape

/-- What a line that ends here leaves: a last word, or a text that is not closed. -/
def lexEnd : Lex → Except AsmError (List Token)
  | .between => .ok []
  | .inWord rev => .ok [.word rev.reverse]
  | .inText _ => .error .openText
  | .escape _ => .error .openText
  | .hexFirst _ => .error .openText
  | .hexSecond _ _ => .error .openText

/-- Whether a semicolon (code 59) begins a comment here: not inside a text. -/
def outsideText : Lex → Bool
  | .between => true
  | .inWord _ => true
  | .inText _ => false
  | .escape _ => false
  | .hexFirst _ => false
  | .hexSecond _ _ => false

/-- The tokens of a line (30_encoding.md R89). -/
def lexLine : Lex → List Char → Except AsmError (List Token)
  | st, [] => lexEnd st
  | st, c :: cs =>
    if c.toNat = 59 ∧ outsideText st then lexEnd st
    else
      match lexChar st c with
      | .error e => .error e
      | .ok (st', ts) =>
        match lexLine st' cs with
        | .ok rest => .ok (ts ++ rest)
        | .error e => .error e

/-! ### Operands -/

/-- An operand as written. -/
inductive Operand where
  | num (n : Nat)
  | name (cs : List Char)
  | text (t : Text)
  | bytes (l : List Nat)
  deriving DecidableEq, Repr

/-- A number in a base from its digits. -/
def digits (base : Nat) : Nat → List Char → Option Nat
  | acc, [] => some acc
  | acc, c :: cs =>
    match hexDigit c with
    | some d => if d < base then digits base (base * acc + d) cs else none
    | none => none

/-- A number, decimal or with 0x hexadecimal (30_encoding.md R89). -/
def number : List Char → Option Nat
  | [] => none
  | [c] => digits 10 0 [c]
  | a :: b :: cs => if a.toNat = 48 ∧ b.toNat = 120 then (if cs.isEmpty then none else digits 16 0 cs) else digits 10 0 (a :: b :: cs)

/-- A word as an operand: a number, or a name. -/
def wordOperand (cs : List Char) : Operand :=
  match number cs with
  | some n => .num n
  | none => .name cs

/-- The operand list between two tokens: an operand must come, one has come, or inside a bitmap (its numbers reversed). -/
inductive Place where
  | before
  | after
  | inBytes (rev : List Nat)
  | afterByte (rev : List Nat)
  deriving DecidableEq, Repr

/-- The operands, separated by commas; a bitmap is `[b0, …, b7]` (30_encoding.md R89). -/
def operands : Place → List Token → Except AsmError (List Operand)
  | .after, [] => .ok []
  | _, [] => .error .badForm
  | .before, .word cs :: ts => (operands .after ts).map (wordOperand cs :: ·)
  | .before, .text t :: ts => (operands .after ts).map (.text t :: ·)
  | .before, .openBracket :: ts => operands (.inBytes []) ts
  | .after, .comma :: ts => operands .before ts
  | .inBytes rev, .word cs :: ts =>
    match number cs with
    | some n => operands (.afterByte (n :: rev)) ts
    | none => .error .badForm
  | .afterByte rev, .comma :: ts => operands (.inBytes rev) ts
  | .afterByte rev, .closeBracket :: ts => (operands .after ts).map (.bytes rev.reverse :: ·)
  | _, _ :: _ => .error .badForm

/-- The operands of a line: none at all, or a list. -/
def operandList : List Token → Except AsmError (List Operand)
  | [] => .ok []
  | t :: ts => operands .before (t :: ts)

/-- `LTR` and `RTL` (30_encoding.md R87, R89). -/
def dirName (cs : List Char) : Option Nat :=
  if cs = "LTR".toList then some 1 else if cs = "RTL".toList then some 0 else none

/-- `NONE`, `BOUNCE` and `LOOP` (30_encoding.md R87, R89). -/
def modeName (cs : List Char) : Option Nat :=
  if cs = "NONE".toList then some 0 else if cs = "BOUNCE".toList then some 1 else if cs = "LOOP".toList then some 2 else none

/-- The mnemonics of 30_encoding.md R86 and R90, by number: a host operation's op code, or 0x80 and more for a pseudo-instruction. -/
def mnemonicTable : List (String × Nat) :=
  [("INITIALIZE", 0x00), ("CLEAR", 0x01), ("HOME", 0x02), ("SET_CURSOR", 0x03), ("DISPLAY_ON", 0x04), ("DISPLAY_OFF", 0x05),
    ("SET_CURSOR_VISIBLE", 0x06), ("BLINK_ON", 0x07), ("BLINK_OFF", 0x08), ("SET_SCROLL_DIRECTION", 0x09), ("SET_AUTOSCROLL", 0x0A),
    ("WRITE_GLYPH", 0x0B), ("DEFINE_GLYPH", 0x0C)]
  ++ [("SHOW_OVERLAY", 0x10), ("PRINT", 0x11), ("SET_BACKGROUND", 0x12), ("SET_BACKGROUND_ROWS", 0x13), ("SET_ANIMATION_MODE", 0x14),
    ("TICK", 0x15)]
  ++ [("CURSOR_ON", 0x80), ("CURSOR_OFF", 0x81), ("AUTOSCROLL_ON", 0x82), ("AUTOSCROLL_OFF", 0x83), ("DISPLAY", 0x84), ("BLINK", 0x85),
    ("WRITE_STRING", 0x86), ("PRINT_BG", 0x87)]

/-- The number of a mnemonic. -/
def mnemonicOf (cs : List Char) : Option Nat := (mnemonicTable.find? (fun e => e.1.toList == cs)).map (·.2)

/-- The operations of a mnemonic with its operands (30_encoding.md R86, R90). A number outside its kind, a bitmap's among them, is left to the
machine to refuse (R88). A line that names an internal primitive is rejected before, in `assembleLine` (`unknownMnemonic`): R89 gives it no
outcome (DESIGN CHOICE, log entry 26). -/
def assembleOp (m : Nat) (ops : List Operand) : Except AsmError (List Instr) :=
  match m, ops with
  | 0x00, [] => .ok [.opInitialize]
  | 0x01, [] => .ok [.clear]
  | 0x02, [] => .ok [.home]
  | 0x03, [.num col, .num row] => .ok [.setCursor col row]
  | 0x04, [] => .ok [.displayOn]
  | 0x05, [] => .ok [.displayOff]
  | 0x06, [.num v] => .ok [.setCursorVisible v]
  | 0x07, [] => .ok [.blinkOn]
  | 0x08, [] => .ok [.blinkOff]
  | 0x09, [.name d] =>
    match dirName d with
    | some d => .ok [.setScrollDirection d]
    | none => .error .badOperands
  | 0x0A, [.num v] => .ok [.setAutoscroll v]
  | 0x0B, [.num b] => .ok [.writeGlyph b]
  | 0x0C, [.num slot, .bytes l] => .ok [.defineGlyph slot l]
  | 0x10, [.text t0, .text t1, .num dur] => .ok [.showOverlay t0 t1 dur]
  | 0x11, [.text t, .num timeoutMs] => .ok [.print t timeoutMs]
  | 0x12, [.num row, .text t] => .ok [.setBackground row t]
  | 0x13, [.text upper, .text lower] => .ok [.setBackgroundRows upper lower]
  | 0x14, [.num row, .name d] =>
    match modeName d with
    | some mode => .ok [.setAnimationMode row mode]
    | none => .error .badOperands
  | 0x15, [.num now] => .ok [.tick now]
  | 0x80, [] => .ok (Pseudo.expand .cursorOn)
  | 0x81, [] => .ok (Pseudo.expand .cursorOff)
  | 0x82, [] => .ok (Pseudo.expand .autoscrollOn)
  | 0x83, [] => .ok (Pseudo.expand .autoscrollOff)
  | 0x84, [.num v] => .ok (Pseudo.expand (.display v))
  | 0x85, [.num v] => .ok (Pseudo.expand (.blink v))
  | 0x86, [.text s] => .ok (Pseudo.expand (.writeString s))
  | 0x87, [.text s] => .ok (Pseudo.expand (.printBg s))
  | _, _ => .error .badOperands

/-- One line of program text: `MNEMONIC [operand {, operand}] [; comment]` (30_encoding.md R89). A line with no token, empty or of a comment
alone, stands for no operation: R89's form begins with a mnemonic and says nothing of such a line (DESIGN CHOICE, log entry 26). -/
def assembleLine (line : List Char) : Except AsmError (List Instr) :=
  match lexLine .between line with
  | .error e => .error e
  | .ok [] => .ok []
  | .ok (.word m :: ts) =>
    match mnemonicOf m with
    | none => .error .unknownMnemonic
    | some k =>
      match operandList ts with
      | .error e => .error e
      | .ok ops => assembleOp k ops
  | .ok (_ :: _) => .error .badForm

end Sys2Proof.Machine
end

