-- ==== Sys2Proof/Tests/Slice0.lean ====
section
/-! SUPPORT. The model's own tests. Expected values are those of spec/95_test_vectors.md (V-..., P...) or written out from the tables of
30_encoding.md; then one witness for the hypotheses of each statement. -/

namespace Sys2Proof.Tests

-- Evaluating a step that sends many bytes recurses deeper than the default allows.
set_option maxRecDepth 40000

open Sys2Proof.Machine

/-! ### Small states -/

/-- A controller in step, with a blank display. -/
def inStep : Panel where
  lcd := { Panel.reset.lcd with sync := .sync4, n := true, id := true, d := true, undef := false }
  time := { busy := 0, since := 0, hs := 0 }

/-- The block after INITIALIZE, with its trace emptied (70_reset_and_hazards.md R274). -/
def up : State :=
  { State.reset with init := true, rowOffsets := ⟨0x00, 0x40, 0x10, 0x50⟩, numLines := 2, bus := { Bus.reset with panel := inStep } }

/-- `up` with the gate closed. -/
def muted : State := { up with env := { oe := false, clock := 0 } }

/-- `up` with the host's clock at `t`. -/
def at_ (t : Nat) (s : State) : State := { s with env := { s.env with clock := BitVec.ofNat 32 t } }

/-- Inside a tick of `up`. -/
def inTick : State := { up with seq := .inOp 0x15 0 true }

/-- A text from its ASCII characters. -/
def str (s : String) : Text := s.toList.map (fun c => BitVec.ofNat 8 c.toNat)

/-- A row. -/
def rowOf (text : String) (offset : Nat) (dir : Dir) (mode : Mode) (deadline : Nat) : RowBuffer := ⟨str text, offset, dir, mode, deadline⟩

/-- `muted` with background rows: the events are recorded all the same (40_bus_adapter.md R102), and cost the kernel less. -/
def shown (r0 r1 : RowBuffer) : State := { muted with row0 := r0, row1 := r1 }

/-- The background of V-OV. -/
def idleReady : State := shown (rowOf "Idle" 0 .fwd .none 0) (rowOf "Ready" 0 .fwd .none 0)

/-- The state an instruction goes on to (the reset state where it stops). -/
def after (r : Result) : State :=
  match r with
  | .next t => t
  | .fault _ => State.reset
  | .refused _ => State.reset

/-- The state after some instructions in a row. -/
def runAll (s : State) : List Instr → State
  | [] => s
  | i :: is => runAll (after (exec i s)) is

/-- The bus bytes an instruction sends from `up`'s empty trace. -/
def sent (i : Instr) (s : State) : List Byte := xmitBytes (after (exec i s)).bus.trace

/-- The least time of what an instruction emits. -/
def least (i : Instr) (s : State) : Nat := waitSum (after (exec i s)).bus.trace

/-- The refusal code of a call. -/
def code (i : Instr) (s : State) : Option RefCode := (after (exec i s)).refusal.map (·.code)

/-- The controller bytes an instruction sends, read back (30_encoding.md R92); none when they do not pair. -/
def controllerBytes (i : Instr) (s : State) : Option (List (Bool × Byte)) :=
  match pairNibbles (sent i s) with
  | some ns => pairBytes ns
  | none => none

/-- `C xx`. -/
def c (v : Byte) : List (Bool × Byte) := [(false, v)]

/-- `D "text"`. -/
def d (t : Text) : List (Bool × Byte) := t.map (fun b => (true, b))

/-- `k×D20`. -/
def pad (k : Nat) : List (Bool × Byte) := d (List.replicate k 0x20)

/-! ### Ill-formed terms are refused (30_encoding.md R87) -/

theorem test_wf_cursor_column : (Instr.setCursor 256 0).wf = false := by decide
theorem test_wf_cursor_row : (Instr.setCursor 0 256).wf = false := by decide
theorem test_wf_cursor_visible : (Instr.setCursorVisible 2).wf = false := by decide
theorem test_wf_scroll_direction : (Instr.setScrollDirection 2).wf = false := by decide
theorem test_wf_autoscroll : (Instr.setAutoscroll 2).wf = false := by decide
theorem test_wf_glyph : (Instr.writeGlyph 256).wf = false := by decide
theorem test_wf_slot : (Instr.defineGlyph 256 (List.replicate 8 0)).wf = false := by decide
theorem test_wf_bitmap : (Instr.defineGlyph 0 (List.replicate 9 0)).wf = false := by decide
theorem test_wf_bitmap_number : (Instr.defineGlyph 0 [0, 0, 0, 256, 0, 0, 0, 0]).wf = false := by decide
theorem test_wf_overlay_text0 : (Instr.showOverlay [0x61, 0x00] [] 5).wf = false := by decide
theorem test_wf_overlay_text1 : (Instr.showOverlay [] [0x00] 5).wf = false := by decide
theorem test_wf_overlay_time : (Instr.showOverlay [] [] 4294967296).wf = false := by decide
theorem test_wf_print_text : (Instr.print [0x00] 5).wf = false := by decide
theorem test_wf_print_time : (Instr.print [] 4294967296).wf = false := by decide
theorem test_wf_background_row : (Instr.setBackground 256 []).wf = false := by decide
theorem test_wf_background_text : (Instr.setBackground 0 [0x41, 0x00, 0x42]).wf = false := by decide
theorem test_wf_rows_upper : (Instr.setBackgroundRows [0x00] []).wf = false := by decide
theorem test_wf_rows_lower : (Instr.setBackgroundRows [] [0x00]).wf = false := by decide
theorem test_wf_mode_row : (Instr.setAnimationMode 256 0).wf = false := by decide
theorem test_wf_mode : (Instr.setAnimationMode 0 3).wf = false := by decide
theorem test_wf_tick : (Instr.tick 4294967296).wf = false := by decide

/-! ### Decoding, by words written out from 30_encoding.md R71, R76, R83 and R86 -/

theorem test_decode_host_plain :
    decode .host [0x00] = .ok (.opInitialize, []) ∧ decode .host [0x01] = .ok (.clear, []) ∧ decode .host [0x02] = .ok (.home, [])
      ∧ decode .host [0x04] = .ok (.displayOn, []) ∧ decode .host [0x05] = .ok (.displayOff, [])
      ∧ decode .host [0x07] = .ok (.blinkOn, []) ∧ decode .host [0x08] = .ok (.blinkOff, []) := ⟨rfl, rfl, rfl, rfl, rfl, rfl, rfl⟩
theorem test_decode_host_small :
    decode .host [0x03, 0x05, 0x00, 0x01, 0x00] = .ok (.setCursor 5 1, []) ∧ decode .host [0x06, 0x01, 0x00] = .ok (.setCursorVisible 1, [])
      ∧ decode .host [0x09, 0x01, 0x00] = .ok (.setScrollDirection 1, []) ∧ decode .host [0x0A, 0x01, 0x00] = .ok (.setAutoscroll 1, [])
      ∧ decode .host [0x0B, 0x41, 0x00] = .ok (.writeGlyph 0x41, [])
      ∧ decode .host [0x14, 0x01, 0x00, 0x02, 0x00] = .ok (.setAnimationMode 1 2, []) := ⟨rfl, rfl, rfl, rfl, rfl, rfl⟩
theorem test_decode_host_text :
    decode .host [0x12, 0x01, 0x00, 0x01, 0x48, 0x01, 0x69, 0x00] = .ok (.setBackground 1 [0x48, 0x69], [])
      ∧ decode .host [0x13, 0x01, 0x41, 0x00, 0x00] = .ok (.setBackgroundRows [0x41] [], [])
      ∧ decode .host [0x10, 0x01, 0x41, 0x00, 0x00, 0xE8, 0x03, 0, 0, 0, 0, 0, 0] = .ok (.showOverlay [0x41] [] 1000, [])
      ∧ decode .host [0x11, 0x01, 0x41, 0x00, 0xE8, 0x03, 0, 0, 0, 0, 0, 0] = .ok (.print [0x41] 1000, [])
      ∧ decode .host [0x15, 0xC2, 0x01, 0, 0, 0, 0, 0, 0] = .ok (.tick 450, []) := ⟨rfl, rfl, rfl, rfl, rfl⟩
theorem test_decode_host_bitmap :
    decode .host [0x0C, 0x03, 0x00, 0x00, 1, 0, 2, 0, 3, 0, 4, 0, 5, 0, 6, 0, 7, 0, 8, 0] = .ok (.defineGlyph 3 [1, 2, 3, 4, 5, 6, 7, 8], [])
      ∧ decode .host [0x0C, 0x00, 0x00, 0x01, 0x01, 0x09, 0x01, 0x00] = .ok (.defineGlyph 0 [265], []) := ⟨rfl, rfl⟩
theorem test_decode_seq :
    decode .seq [0x18, 1, 0, 4] = .ok (.transmit ⟨true, false, 4⟩, []) ∧ decode .seq [0x19, 0, 3] = .ok (.nibble false 3, [])
      ∧ decode .seq [0x1A, 1, 0x41] = .ok (.send true 0x41, []) ∧ decode .seq [0x1B, 1] = .ok (.renderRow .row1, [])
      ∧ decode .seq [0x1C, 0] = .ok (.stepRow .row0, []) := ⟨rfl, rfl, rfl, rfl, rfl⟩
theorem test_decode_commands :
    decode .ctl [0b00000001, 0] = .ok (.cmdClearDisplay, []) ∧ decode .ctl [0b00000010, 0] = .ok (.cmdReturnHome false, [])
      ∧ decode .ctl [0b00000111, 0] = .ok (.cmdEntryModeSet true true, [])
      ∧ decode .ctl [0b00001110, 0] = .ok (.cmdDisplayControl true true false, [])
      ∧ decode .ctl [0b00011001, 0] = .ok (.cmdCursorDisplayShift true false 0b01, [])
      ∧ decode .ctl [0b00101000, 0] = .ok (.cmdFunctionSet false true false 0b00, []) := ⟨rfl, rfl, rfl, rfl, rfl, rfl⟩
theorem test_decode_addresses_and_data :
    decode .ctl [0b01011000, 0] = .ok (.cmdSetCgramAddress 0b011000, []) ∧ decode .ctl [0b11000101, 0] = .ok (.cmdSetDdramAddress 0x45, [])
      ∧ decode .ctl [0x41, 1] = .ok (.dataWrite 0x41, []) := ⟨rfl, rfl, rfl⟩
theorem test_decode_nibbles_and_bus :
    decode .nib [0b00011] = .ok (.handshakeNibble8bit, []) ∧ decode .nib [0b00010] = .ok (.handshakeNibble4bit, [])
      ∧ decode .bus [0b10101000] = .ok (.busByte true true 0b0100, []) := ⟨rfl, rfl, rfl⟩
theorem test_decode_rejects :
    decode .host [0x0D] = .error (.unassignedOp 0x0D) ∧ decode .host [0x18] = .error (.internalOp 0x18)
      ∧ decode .host [0x03, 0x05] = .error (.truncated 0x03) ∧ decode .bus [0x01] = .error (.notBusByte 0x01)
      ∧ decode .bus [0x40] = .error (.notBusByte 0x40) ∧ decode .ctl [0x00, 0] = .error .noCommand
      ∧ decode .nib [0b10101] = .error (.plainNibble true 5) := ⟨rfl, rfl, rfl, rfl, rfl, rfl, rfl⟩
theorem test_table_words :
    decodeTableWord 8 0x15 = some (.tick 0) ∧ decodeTableWord 8 0x1A = some (.send false 0)
      ∧ decodeTableWord 16 0x141 = some (.dataWrite 0x41) ∧ decodeTableWord 16 0x0C5 = some (.cmdSetDdramAddress 0x45)
      ∧ decodeTableWord 8 0xA8 = some (.busByte true true 4) := ⟨rfl, rfl, rfl, rfl, rfl⟩
theorem test_fetch_word_runs : (after (step (State.reset.withFetchWord 8 0x00))).init = true := by decide
theorem test_fetch_word_internal : xmitBytes (after (step (State.reset.withFetchWord 8 0x1A))).bus.trace = [0x20, 0x00, 0x20, 0x00] := by decide

/-! ### The Serial Bus Adapter -/

/-- V-BUS: the serial bits of 0xA8, first to last. -/
theorem test_serial_bits : ((lineSteps 0xA8).filter (·.sck)).map (·.sda) = [false, false, false, true, false, true, false, true] := by decide
/-- 10_state.md R20, R37: a bus byte of a larger system reaches the controller under either level of the gate, and not the block's registers. -/
theorem test_bus_byte :
    (after (exec (.busByte true true 4) muted)).bus.panel.lcd.e = true ∧ (after (exec (.busByte true true 4) muted)).bus.par = muted.bus.par
      ∧ (after (exec (.transmit ⟨true, true, 4⟩) inTick)).bus.par = 0xA8 := by decide
/-- 30_encoding.md R86: 0x21 is no code of 5 bits, and not CLEAR. -/
theorem test_op_beyond_five_bits : decode .host [0x21] = .error (.unassignedOp 0x21) := rfl
theorem test_transmit : sent (.transmit ⟨true, true, 0xF⟩) inTick = [0xBE] := by decide
/-- V-NIB. -/
theorem test_nibble :
    (after (exec (.nibble true 0xF) inTick)).bus.trace = [.xmit 0xBE true, .wait 1, .xmit 0x9E true, .wait 100] := by decide
/-- V-SEND. -/
theorem test_send : sent (.send true 0x41) inTick = [0xA8, 0x88, 0xA2, 0x82] ∧ least (.send true 0x41) inTick = 202 := by decide

/-! ### The Controller Protocol Driver -/

/-- V-INIT-1. -/
theorem test_initialize_bytes :
    sent .opInitialize State.reset =
      [0x26, 0x06, 0x26, 0x06, 0x26, 0x06, 0x24, 0x04, 0x24, 0x04, 0x30, 0x10, 0x20, 0x00, 0x38, 0x18, 0x20, 0x00, 0x22, 0x02,
       0x20, 0x00, 0x2C, 0x0C] := by decide
theorem test_initialize_end :
    let t := after (exec .opInitialize State.reset)
    least .opInitialize State.reset = 51562 ∧ t.bus.par = 0x0C ∧ t.bus.panel.lcd.sync = .sync4 ∧ t.bus.panel.lcd.undef = false := by decide
/-- V-INIT-2. -/
theorem test_uninit : code .clear State.reset = some .uninit ∧ code .opInitialize up = some .reinit := by decide
theorem test_after_refusal : exec .opInitialize (after (exec .clear State.reset)) = .fault .runEnded := rfl
/-- V-CMD. -/
theorem test_clear : sent .clear up = [0x20, 0x00, 0x22, 0x02] ∧ least .clear up = 2202 := by decide
theorem test_home : sent .home up = [0x20, 0x00, 0x24, 0x04] ∧ least .home up = 2202 := by decide
/-- V-CUR. -/
theorem test_cursor :
    sent (.setCursor 5 1) up = [0x38, 0x18, 0x2A, 0x0A] ∧ sent (.setCursor 3 7) up = [0x38, 0x18, 0x26, 0x06]
      ∧ sent (.setCursor 255 1) up = [0x36, 0x16, 0x3E, 0x1E] ∧ sent (.setCursor 200 0) up = [0x38, 0x18, 0x30, 0x10] := by decide
theorem test_cursor_no_cell : (after (exec (.setCursor 40 0) up)).bus.panel.lcd.undef = true := by decide
/-- V-FLAG. -/
theorem test_flags_in_a_row :
    let t := runAll muted [.displayOff, .setCursorVisible 1, .blinkOn, .displayOn, .blinkOff, .setCursorVisible 0]
    t.ctl = ⟨true, false, false⟩ ∧ pairNibbles (xmitBytes t.bus.trace) =
      some [(false, 0), (false, 8), (false, 0), (false, 0xA), (false, 0), (false, 0xB), (false, 0), (false, 0xF), (false, 0), (false, 0xE),
        (false, 0), (false, 0xC)] := by decide
theorem test_entry_flags_in_a_row :
    let t := runAll muted [.setScrollDirection 0, .setAutoscroll 1, .setScrollDirection 1, .setAutoscroll 0]
    t.ent = ⟨true, false⟩ ∧ pairNibbles (xmitBytes t.bus.trace) =
      some [(false, 0), (false, 4), (false, 0), (false, 5), (false, 0), (false, 7), (false, 0), (false, 6)] := by decide
/-- V-GLYPH. -/
theorem test_write_glyph : sent (.writeGlyph 0x7E) up = [0xAE, 0x8E, 0xBC, 0x9C] ∧ sent (.writeGlyph 0xFF) up = [0xBE, 0x9E, 0xBE, 0x9E] := by
  decide
theorem test_write_glyph_stores :
    let t := after (exec (.writeGlyph 0x41) up)
    t.bus.panel.lcd.cell .row0 0 = 0x41 ∧ t.bus.panel.lcd.ac = 1 := by decide
/-- V-DG. -/
theorem test_define_glyph :
    controllerBytes (.defineGlyph 8 [0x0E, 0x11, 0x11, 0x1F, 0x11, 0x11, 0x11, 0x00]) up =
      some (c 0x78 ++ d [0x0E, 0x11, 0x11, 0x1F, 0x11, 0x11, 0x11, 0x00]) := by decide
theorem test_define_glyph_stores :
    let t := after (exec (.defineGlyph 0 [0xFF, 0x11, 0x11, 0x1F, 0x11, 0x11, 0x11, 0x00]) up)
    t.bus.panel.lcd.glyph 8 = some [0x1F, 0x11, 0x11, 0x1F, 0x11, 0x11, 0x11, 0x00] ∧ t.bus.panel.lcd.ac = 8 := by decide

/-! ### The Overlay/Scroll Scheduler -/

/-- V-RENDER. -/
theorem test_render :
    controllerBytes (.renderRow .row1) { shown RowBuffer.reset (rowOf "This is a very long status line" 15 .bwd .bounce 0) with
      seq := .inOp 0x15 0 false } = some (c 0xC0 ++ d (str "long status line")) := by decide
/-- V-BG 1. -/
theorem test_background :
    controllerBytes (.setBackground 5 (str "ABC")) muted = some (c 0xC0 ++ d (str "ABC") ++ pad 13)
      ∧ (after (exec (.setBackground 5 (str "ABC")) muted)).row1 = rowOf "ABC" 0 .fwd .none 0 := by decide
/-- V-BG 5. -/
theorem test_background_under_overlay :
    let s := { muted with ov := ⟨true, 6000⟩ }
    sent (.setBackground 0 (str "New")) s = [] ∧ (after (exec (.setBackground 0 (str "New")) s)).row0.content = str "New" := by decide
/-- V-BG 7. -/
theorem test_background_rows :
    let i := Instr.setBackgroundRows (str "Key down: 7") (str "This is a very long status line")
    controllerBytes i muted = some (c 0x80 ++ d (str "Key down: 7") ++ pad 5 ++ c 0xC0 ++ d (str "This is a very l")) ∧ least i muted = 6868 := by
  decide
/-- V-BG 6. -/
theorem test_background_rows_refused : exec (.setBackgroundRows (str "Up") [0x41, 0x00]) muted = .next (muted.mark .nulText (some 0x13)) := rfl
/-- V-MODE. -/
theorem test_animation_mode : (after (exec (.setAnimationMode 7 1) muted)).row1.mode = .bounce ∧ sent (.setAnimationMode 7 1) muted = [] := by decide
/-- V-OV 1. -/
theorem test_overlay :
    let i := Instr.showOverlay (str "Hi") [] 1000
    controllerBytes i (at_ 5000 muted) = some (c 0x01 ++ c 0x80 ++ d (str "Hi") ++ c 0xC0) ∧ least i (at_ 5000 muted) = 3010
      ∧ (after (exec i (at_ 5000 muted))).ov = ⟨true, 6000⟩ := by decide
/-- V-OV 2 and 5: the old expiry is discarded; both rows are cut. -/
theorem test_overlay_again :
    (runAll (at_ 5500 { muted with ov := ⟨true, 6000⟩, clkLast := 5000 }) [.showOverlay (str "Bye") (str "now") 100]).ov = ⟨true, 5600⟩
      ∧ (sent (.showOverlay (List.replicate 20 0x41) (List.replicate 19 0x42) 0) muted).length = 140 := by decide
/-- V-PRINT 1 and 3. -/
theorem test_print :
    controllerBytes (.print (str "Key echo: ON") 1000) (at_ 10000 muted) = some (c 0x01 ++ c 0x80 ++ d (str "Key echo: ON") ++ c 0xC0)
      ∧ controllerBytes (.print (str "X") 0) muted = some (c 0x80 ++ d (str "X") ++ pad 15) := by decide
/-- V-OV 3 and 4. -/
theorem test_tick_expiry :
    let s := { idleReady with ov := ⟨true, 5600⟩, clkLast := 5500 }
    sent (.tick 5599) s = [] ∧ controllerBytes (.tick 5600) s =
      some (c 0x01 ++ c 0x80 ++ d (str "Idle") ++ pad 12 ++ c 0xC0 ++ d (str "Ready") ++ pad 11) := by decide
/-- V-TICK-2. -/
theorem test_tick_both_rows :
    let s := shown (rowOf "ABCDEFGHIJKLMNOPQR" 0 .fwd .loop 0) (rowOf "abcdefghijklmnopq" 0 .fwd .bounce 0)
    controllerBytes (.tick 0) s = some (c 0x80 ++ d (str "BCDEFGHIJKLMNOPQ") ++ c 0xC0 ++ d (str "bcdefghijklmnopq"))
      ∧ (after (exec (.tick 0) s)).row1 = rowOf "abcdefghijklmnopq" 1 .bwd .bounce 450 := by decide
/-- V-TICK-G 1 and 2. -/
theorem test_step_row_guards :
    (after (exec (.stepRow .row1) { inTick with row1 := rowOf "abcdefghijklmnopqrst" 4 .fwd .bounce 0 })).row1.offset = 3
      ∧ (after (exec (.stepRow .row1) { inTick with row1 := rowOf "abcdefghijklmnopqrst" 2 .bwd .loop 0 })).row1 =
          rowOf "abcdefghijklmnopqrst" 3 .fwd .loop 0 := by decide
/-- V-TICK-B, L = 17: 1 (BWD), 0 (FWD). -/
theorem test_step_row_bounce :
    (RowBuffer.step (rowOf "abcdefghijklmnopq" 0 .fwd .bounce 0)) = rowOf "abcdefghijklmnopq" 1 .bwd .bounce 0
      ∧ (RowBuffer.step (rowOf "abcdefghijklmnopq" 1 .bwd .bounce 0)) = rowOf "abcdefghijklmnopq" 0 .fwd .bounce 0 := by decide

/-! ### Refusals and the gate -/

/-- V-REF. -/
theorem test_time_refusals :
    code (.tick 999) { muted with clkLast := 1000 } = some .timeBackward ∧ code (.tick 4294966846) muted = some .timeRange
      ∧ code (.tick 4294966845) muted = none ∧ code (.showOverlay (str "a") [] 1) (at_ 4294967295 muted) = some .timeRange := by decide
theorem test_grammar_refusals :
    code (.setCursor 256 0) muted = some .argRange ∧ code (.defineGlyph 0 (List.replicate 9 0)) muted = some .bitmapLen
      ∧ code (.showOverlay [0x61, 0x00] [] 5) muted = some .nulText ∧ code (.setBackground 0 [0x41, 0x00, 0x42]) State.reset = some .nulText
      ∧ code (.tick 4294967295) State.reset = some .uninit := by decide
/-- R87, R88: a bitmap number that is no byte, in the form of a line and of a record. -/
theorem test_bitmap_number :
    code (.defineGlyph 0 [0, 0, 0, 0, 0, 0, 0, 256]) muted = some .argRange
      ∧ assembleLine "DEFINE_GLYPH 7, [0, 0, 0, 0, 0, 0, 0, 0x100]".toList = .ok [.defineGlyph 7 [0, 0, 0, 0, 0, 0, 0, 256]] := ⟨by decide, rfl⟩
/-- R87: the operands of the internal primitives. -/
theorem test_primitive_operands :
    (after (step { inTick with inbox := [.record .seq up.env [0x19, 0, 16]] })).refusal = some ⟨.argRange, some 0x19⟩
      ∧ (after (step { inTick with inbox := [.record .seq up.env [0x1B, 2]] })).refusal = some ⟨.argRange, some 0x1B⟩
      ∧ (after (step { up with inbox := [.record .seq up.env [0x19, 0, 16]] })).refusal = some ⟨.badOp, some 0x19⟩ := by decide
theorem test_bad_op :
    (after (step { up with inbox := [.record .host up.env [0x1D, 0xFF]] })).refusal = some ⟨.badOp, some 0x1D⟩
      ∧ (after (step { up with inbox := [.record .host up.env [0x18, 0, 0, 0]] })).refusal = some ⟨.badOp, some 0x18⟩ := by decide
theorem test_reentrant : code .clear inTick = some .reentrant ∧ code (.transmit ⟨false, false, 0⟩) up = some .badOp := by decide
/-- V-GATE 1 and 2. -/
theorem test_gate :
    let t := after (exec (.setBackground 0 (str "Hi")) muted)
    t.bus.trace.length = 136 ∧ t.bus.par = 0 ∧ t.bus.panel.lcd = inStep.lcd ∧ t.row0.content = str "Hi"
      ∧ (xmitBytes t.bus.trace).take 8 = [0x30, 0x10, 0x20, 0x00, 0xA8, 0x88, 0xB0, 0x90] := by decide
theorem test_gate_flag :
    (after (exec .displayOff muted)).ctl.d = false ∧ (after (exec .displayOff muted)).bus.panel.lcd.d = true
      ∧ (after (exec .displayOff up)).bus.panel.lcd.d = false := by decide

/-! ### The controller (47_display_observer.md R217 to R222) and the checker (R231) -/

/-- `up` with another controller state. -/
def upWith (l : Lcd) : State := { up with bus := { up.bus with panel := { inStep with lcd := l } } }

theorem test_cmd_clear :
    (after (exec .cmdClearDisplay (upWith { inStep.lcd with ac := 5, ddram := [(3, 0x41)], id := false }))).bus.panel.lcd = inStep.lcd := by
  decide
/-- R216: 1.52 ms, of which the settle of the second nibble takes 100 µs. -/
theorem test_cmd_home : (after (exec (.cmdReturnHome true) up)).bus.panel.time.busy = 1420 := by decide
theorem test_cmd_entry_mode : (after (exec (.cmdEntryModeSet false true) up)).bus.panel.lcd = { inStep.lcd with id := false, s := true } := by decide
theorem test_cmd_display : (after (exec (.cmdDisplayControl false true true) up)).bus.panel.lcd.picture true = .off := by decide
theorem test_cmd_shift : (after (exec (.cmdCursorDisplayShift false true 0) up)).bus.panel.lcd.picture true = .undefined := by decide
theorem test_cmd_function : (after (exec (.cmdFunctionSet true false true 0) up)).bus.panel.lcd.n = false := by decide
theorem test_cmd_addresses :
    (after (exec (.cmdSetDdramAddress 0x67) up)).bus.panel.lcd.undef = false ∧ (after (exec (.cmdSetDdramAddress 0x68) up)).bus.panel.lcd.undef = true
      ∧ (after (exec (.cmdSetCgramAddress 0x3F) up)).bus.panel.lcd.tgt = .cgram := by decide
/-- R222: from 0x27 to 0x40. -/
theorem test_data_write :
    (runAll up [.cmdSetDdramAddress 0x27, .dataWrite 0x41]).bus.panel.lcd.ac = 0x40
      ∧ (runAll up [.cmdSetCgramAddress 0x3F, .dataWrite 0xFF]).bus.panel.lcd.cgram = [(0x3F, 0x1F)] := by decide
theorem test_handshake_nibbles :
    (after (exec .handshakeNibble4bit { up with bus := { up.bus with panel := { Panel.reset with time := ⟨0, 150, 3⟩ } } })).bus.panel.lcd.sync = .sync4
      ∧ (after (exec .handshakeNibble8bit up)).bus.panel.lcd.hi = 3 := by decide
/-- R216, 70_reset_and_hazards.md R275: a byte right after clear finds the controller at work. -/
theorem test_feed_after_clear :
    (runAll up [.cmdClearDisplay, .dataWrite 0x41]).bus.panel.lcd.undef = true
      ∧ (runAll up [.cmdEntryModeSet true false, .dataWrite 0x41]).bus.panel.lcd.undef = false := by decide
/-- R213: of the bytes 26, 26 06, 06 only the third lets E fall. -/
theorem test_one_falling_edge :
    let t := runAll up [.busByte false true 3, .handshakeNibble8bit, .busByte false false 3]
    t.bus.panel.lcd.phase = .lo ∧ t.bus.panel.lcd.hi = 3 ∧ t.bus.fed = [.xmit 0x26 true] ++ nibbleEvents true false 3 ++ [.xmit 0x06 true] := by
  decide
/-- 70_reset_and_hazards.md R277: nibbles 3, 3 (1 ms apart), 3, 2 at a controller in step. -/
theorem test_short_handshake_gap :
    let shake (w : Nat) := nibbleEvents true false 3 ++ [.wait w] ++ nibbleEvents true false 3 ++ [.wait 4100] ++ nibbleEvents true false 3
      ++ [.wait 150] ++ nibbleEvents true false 2
    (inStep.replay (shake 1000)).lcd.undef = true ∧ (inStep.replay (shake 4100)).lcd.undef = false := by decide
/-- R231 (d), 70_reset_and_hazards.md R275 and R276: the intervals, with waits shortened or dropped. -/
theorem test_checker_intervals :
    checkTrace (initEvents ++ cmdEvents true 0x01 ++ [.wait 1600] ++ cmdEvents true 0x06) = some .tooEarly
      ∧ checkTrace (initEvents ++ cmdEvents true 0x01 ++ [.wait 2000] ++ cmdEvents true 0x06) = none
      ∧ checkTrace (initEvents ++ [.xmit 0x20 true, .xmit 0x00 true, .wait 100, .xmit 0x2C true, .wait 1, .xmit 0x0C true]) = some .tooEarly
      ∧ checkTrace initEvents.tail = some .tooEarly := by decide
/-- R225, R231: after INITIALIZE a blank display; after a feed the block never emits a fault, not a render. -/
theorem test_display :
    (after (exec .opInitialize State.reset)).display = .ok (.rows (List.replicate 16 0x20) (List.replicate 16 0x20)) := by decide
theorem test_display_fault :
    (after (exec (.cmdFunctionSet false true false 0) { up with bus := { up.bus with fed := initEvents } })).display = .error .neverEmitted := by
  decide
/-- R212, R231: 0x67 and 0x46 are 0x26 and 0x06 but for bits 6 and 0: one strobe, and a fault where the picture is asked for. -/
theorem test_stray_bus_byte :
    let t := after (step (after (step { up with inbox := [.record .bus up.env [0x67, 0x46]] })))
    t.inbox = [] ∧ t.bus.par = up.bus.par ∧ t.bus.panel.lcd.hi = 3 ∧ t.bus.panel.lcd.phase = .lo ∧ t.display = .error .outsideSet := by decide
/-- R231: no frame of its level. -/
theorem test_no_frame :
    let t := after (step { up with inbox := [.record .ctl up.env [0x41, 2]] })
    t.bus.panel = up.bus.panel ∧ t.display = .error .noFrame := by decide
theorem test_checker :
    checkTrace (after (exec .opInitialize State.reset)).bus.trace = none
      ∧ checkTrace (initEvents ++ cmdEvents true 0x18) = some .neverEmitted ∧ checkTrace [.xmit 0x40 true] = some .outsideSet
      ∧ checkTrace [.xmit 0x26 true] = some .unpaired ∧ checkTrace (cmdEvents true 0x01) = some .noHandshake := by decide
theorem test_timed_run : admits (nibbleEvents true false 3) [0, 1] = true ∧ admits (nibbleEvents true false 3) [0, 0] = false := by decide
/-- R220, R221 and P3's cursor: underline and blink apart, and nothing with D = 0. -/
theorem test_cursor_cell :
    let l := (runAll up [.setCursor 6 1, .setCursorVisible 1]).bus.panel.lcd
    l.cursorCell = some (.row1, 6) ∧ l.blinkCell = none ∧ { l with d := false }.cursorCell = none := by decide
theorem test_blink_cell :
    let l := (runAll up [.setCursor 15 0, .blinkOn]).bus.panel.lcd
    l.cursorCell = none ∧ l.blinkCell = some (.row0, 15) ∧ { l with tgt := .cgram }.blinkCell = none := by decide

/-! ### The assembler (30_encoding.md R89, R90; the lines are those of P1, P3 and P4) -/

theorem test_assemble_rows :
    assembleLine "SET_ANIMATION_MODE 1, BOUNCE    ; op=0x14 (1, 1)".toList = .ok [.setAnimationMode 1 1] := rfl
theorem test_assemble_glyph :
    assembleLine "DEFINE_GLYPH 0, [0x00, 0x0A, 0x1F, 0x1F, 0x0E, 0x04, 0x00, 0x00]".toList =
      .ok [.defineGlyph 0 [0x00, 0x0A, 0x1F, 0x1F, 0x0E, 0x04, 0x00, 0x00]] := rfl
/-- Log entry 26: a comment alone, and the marks of P2 and P5. -/
theorem test_assemble_marks :
    assembleLine "  ; op=0x00 ()".toList = .ok [] ∧ assembleLine "PRINT \"Key echo: ON\", 1000 @2000".toList = .error (.badCharacter 64)
      ∧ assembleLine "SET_BACKGROUND 1, \"muted\" OE=0".toList = .error (.badCharacter 61) := ⟨rfl, rfl, rfl⟩
theorem test_assemble_pseudo : assembleLine "WRITE_STRING \"ok\"".toList = .ok [.writeGlyph 0x6F, .writeGlyph 0x6B] := rfl
theorem test_assemble_escape : assembleLine "PRINT_BG \"a\\x7E\\\"\"".toList = .ok [.print [0x61, 0x7E, 0x22] 0] := rfl

/-! ### Witnesses: for each statement with hypotheses, a state and operands that meet them together -/

/-- `up` with an input. -/
def given (s : State) (x : Input) : State := { s with inbox := [x] }

/-- A call's bytes from the host. -/
def call (bytes : List Byte) : Input := .record .host up.env bytes

theorem test_up_inv : up.Inv := ⟨by decide, by decide, by decide, by decide, by decide, by decide, by decide⟩
theorem test_up_synced : up.bus.panel.Synced := ⟨rfl, rfl, rfl, rfl, by decide⟩
theorem test_up_upright : up.bus.panel.Upright := ⟨rfl, rfl, rfl⟩

theorem test_hyps_RefusesUninit : State.reset.callable ∧ State.reset.init = false := by decide
theorem test_hyps_ResetGivesTheFieldsTheirResetValues :
    (given up .firmwareReset).inbox = [.firmwareReset] ∧ ∃ t, step (given up .firmwareReset) = .next t := ⟨rfl, _, rfl⟩
theorem test_hyps_StepRunsTheDecodedInstruction :
    ((given up (call [0x01])).refused = false ∧ (given up (call [0x01])).inbox = [.record .host up.env [0x01]]
        ∧ decode .host [0x01] = .ok (.clear, []) ∧ (given up (call [0x01])).seq = .idle)
      ∧ (inTick.refused = false ∧ decode .bus [0xA8] = .ok (.busByte true true 4, []) ∧ Port.bus ≠ .host)
      ∧ up.inbox = [] ∧ (given up (.pause 37)).inbox = [.pause 37] := by
  exact ⟨⟨rfl, rfl, rfl, rfl⟩, ⟨rfl, rfl, by decide⟩, rfl, rfl⟩
theorem test_hyps_OnlyInitializeRunsFirstAndOnce :
    (State.reset.callable ∧ State.reset.init = false ∧ Instr.clear.port = .host ∧ Instr.clear.wf = true ∧ Instr.clear ≠ .opInitialize)
      ∧ up.callable ∧ up.init = true := by decide
theorem test_hyps_EveryStepFromIdleEndsIdle :
    (given State.reset (call [0x00])).seq = .idle ∧ ∃ t, step (given State.reset (call [0x00])) = .next t := ⟨rfl, _, rfl⟩
theorem test_hyps_DecodeReadsWhatEncodeWrites :
    (Instr.setCursor 255 255).wf = true ∧ (Instr.setCursor 256 0).wf = false ∧ (Instr.setCursor 256 0).fits = true := by decide
theorem test_hyps_LowerLevelWordsHaveOneMeaning :
    decode .bus [0xBE, 0x00] = .ok (.busByte true true 0xF, [0x00]) ∧ decode .nib [0x03] = .ok (.handshakeNibble8bit, [])
      ∧ decode .ctl [0xFF, 0x00] = .ok (.cmdSetDdramAddress 0x7F, []) ∧ decode .seq [0x1B, 0x01] = .ok (.renderRow .row1, []) :=
  ⟨rfl, rfl, rfl, rfl⟩
theorem test_hyps_BusBytesHaveTheirLayout : (3 < 4) ∧ pack ⟨true, true, 0xF⟩ = 0xBE ∧ pack ⟨true, true, 0xF⟩ = pack ⟨true, true, 0xF⟩ := by decide
theorem test_hyps_CommandBytesHaveTheirValues : (7 ≤ 7) ∧ cgaByte 7 = 0x78 := by decide
theorem test_hyps_ControllerBytesAreReadByTheirHighestBit :
    decodeController false 0x01 = .ok .cmdClearDisplay ∧ decodeController false 0x80 = .ok (.cmdSetDdramAddress 0) := ⟨rfl, rfl⟩
theorem test_hyps_BusByteGoesOverTheLink :
    inTick.inside 0x15 0 true ∧ (upWith { inStep.lcd with e := true }).bus.panel.lcd.e = true ∧ ¬ (up.bus.panel.lcd.e = true ∧ false = false)
      ∧ (given up (.record .bus up.env [0x41])).inbox = [.record .bus up.env [0x41]] ∧ up.refused = false
      ∧ (0x41 : Byte).getLsbD 6 = true ∧ (0x41 : Byte).getLsbD 0 = true := by decide
theorem test_hyps_TransmitSendsItsByte : inTick.inside 0x15 0 true ∧ State.inside { muted with seq := .inOp 0x12 4 false } 0x12 4 false := by decide
theorem test_hyps_NibbleIsOneEnablePulse : inTick.inside 0x15 0 true ∧ true = true := by decide
theorem test_hyps_SendIsTwoNibblesHighFirst : inTick.inside 0x15 0 true := by decide
theorem test_hyps_ClosedGateMovesNoLine :
    Instr.clear.port = .host ∧ Instr.clear ≠ .opInitialize ∧ muted.env.oe = false ∧ ∃ t, exec .clear muted = .next t :=
  ⟨rfl, by decide, rfl, _, rfl⟩
theorem test_hyps_WaitsAreLowerBounds : admits (nibbleEvents true false 3) [0, 1] = true ∧ 1 < [0, 1].length := by decide
theorem test_hyps_LeastDurationsAndCounts :
    (List.replicate 8 (0xFF : Byte)).length = 8 ∧ (rowOf "abcdefghijklmnop" 0 .fwd .none 0).ok ∧ (rowOf "abcdefghijklmnopq" 1 .bwd .bounce 0).ok := by
  decide
theorem test_hyps_InitializeRunsTheHandshake :
    (State.reset.mark .badOp none).refused = true ∧ (up.callable ∧ up.init = true) ∧ State.reset.callable ∧ State.reset.init = false := by decide
theorem test_hyps_HandshakeWorksFromAnyController :
    (4100 ≤ 4100 ∧ 150 ≤ 150) ∧ 100 + 3998 + 1 < 4100 ∧ 100 + 48 + 1 < 150 := by decide
theorem test_hyps_InitializeDeterminesTheController : State.reset.callable ∧ State.reset.init = false := by decide
theorem test_hyps_ClearAndHomeSendTheirByte : up.ready ∧ State.reset.callable ∧ State.reset.init = false := by decide
theorem test_hyps_SetCursorSendsItsAddress :
    (up.ready ∧ 255 < 256 ∧ up.layoutOk) ∧ (State.reset.callable ∧ State.reset.init = false) ∧ up.callable ∧ (256 ≤ 256 ∨ 256 ≤ 0) := by decide
theorem test_hyps_ControlFlagOpsSendTheGroup : (up.ready ∧ 1 < 2) ∧ up.callable ∧ 2 ≤ 2 := by decide
theorem test_hyps_EntryFlagOpsSendTheGroup : (up.ready ∧ 0 < 2 ∧ 1 < 2) ∧ up.callable ∧ 2 ≤ 2 := by decide
theorem test_hyps_WriteGlyphSendsItsByte : (up.ready ∧ 255 < 256) ∧ up.callable ∧ 256 ≤ 256 := by decide
theorem test_hyps_DefineGlyphSendsItsBitmap : (up.ready ∧ 255 < 256) ∧ up.callable ∧ (List.replicate 9 255).length ≠ 8 ∧ (∀ b ∈ List.replicate 9 255, b < 256)
      ∧ (List.replicate 8 256).length = 8 ∧ ∃ b ∈ List.replicate 8 256, 256 ≤ b := by decide
theorem test_hyps_DriverFieldsHaveTheirWriters :
    (∃ t, exec .displayOff up = .next t ∧ t.ctl ≠ up.ctl) ∧ (∃ t, exec (.setScrollDirection 0) up = .next t ∧ t.ent ≠ up.ent)
      ∧ recordOp (encode (.defineGlyph 0 [])) = some 0x0C ∧ (Instr.defineGlyph 0 []).port = .host :=
  ⟨⟨_, rfl, by decide⟩, ⟨_, rfl, by decide⟩, rfl, rfl⟩
theorem test_hyps_AFlagChangeSendsItsGroup :
    (∃ t, exec .blinkOn up = .next t ∧ t.ctl ≠ up.ctl) ∧ ∃ t, exec (.setAutoscroll 1) up = .next t ∧ t.ent ≠ up.ent :=
  ⟨⟨_, rfl, by decide⟩, _, rfl, by decide⟩
theorem test_hyps_DriverOpsOnTheControllerMemory :
    up.ready ∧ up.env.oe = true ∧ (Instr.writeGlyph 0x41).wf = true ∧ up.bus.panel.Synced ∧ up.bus.panel.ok ∧ up.bus.panel.lcd.tgt = .ddram
      ∧ (∃ t, exec (.writeGlyph 0x41) up = .next t) ∧ (∃ t, exec .clear up = .next t) ∧ (∃ t, exec .home up = .next t)
      ∧ (∃ t, exec .displayOff up = .next t) ∧ ∃ t, exec (.setAutoscroll 1) up = .next t :=
  ⟨by decide, rfl, rfl, test_up_synced, by decide, rfl, ⟨_, rfl⟩, ⟨_, rfl⟩, ⟨_, rfl⟩, ⟨_, rfl⟩, _, rfl⟩
theorem test_hyps_DefineGlyphFillsItsSlot :
    up.ready ∧ up.env.oe = true ∧ 255 < 256 ∧ (List.replicate 8 0xFF).length = 8 ∧ (∀ b ∈ List.replicate 8 0xFF, b < 256) ∧ up.bus.panel.Synced ∧ up.bus.panel.ok
      ∧ up.bus.panel.lcd.id = true ∧ ∃ t, exec (.defineGlyph 255 (List.replicate 8 0xFF)) up = .next t :=
  ⟨by decide, rfl, by decide, rfl, by decide, test_up_synced, by decide, rfl, _, rfl⟩
theorem test_hyps_WindowIsSixteenBytes :
    ((rowOf "abcdefghijklmnopq" 1 .bwd .bounce 0).ok ∧ 16 < (rowOf "abcdefghijklmnopq" 1 .bwd .bounce 0).content.length)
      ∧ (rowOf "abcdefghijklmnop" 0 .fwd .none 0).ok ∧ (rowOf "abcdefghijklmnop" 0 .fwd .none 0).content.length ≤ 16 ∧ 15 < 16 := by decide
theorem test_hyps_RenderRowSendsTheWindow : inTick.inside 0x15 0 true ∧ (inTick.row .row0).ok ∧ (inTick.row .row1).ok := by decide
theorem test_hyps_RenderShowsTheWindow :
    inTick.inside 0x15 0 true ∧ inTick.Inv ∧ inTick.init = true ∧ inTick.bus.panel.Synced ∧ inTick.bus.panel.Upright
      ∧ ∃ t, exec (.renderRow .row1) inTick = .next t :=
  ⟨by decide, ⟨by decide, by decide, by decide, by decide, by decide, by decide, by decide⟩, rfl, test_up_synced, test_up_upright, _, rfl⟩
theorem test_hyps_SetBackgroundWritesItsRow :
    (up.ready ∧ 255 < 256 ∧ Text.wf (str "ABC") = true ∧ up.ov.active = false)
      ∧ (State.ready { up with ov := ⟨true, 9⟩ }) ∧ (up.callable ∧ 256 ≤ 256) ∧ Text.wf [0x41, 0x00] = false := by decide
theorem test_hyps_SetBackgroundRowsIsBothRows :
    (up.ready ∧ Text.wf (str "Up") = true ∧ Text.wf [] = true) ∧ up.callable ∧ ¬ (Text.wf (str "Up") = true ∧ Text.wf [0x00] = true) := by decide
theorem test_hyps_SetAnimationModeWritesTheMode : (up.ready ∧ 255 < 256 ∧ 2 < 3) ∧ up.callable ∧ (256 ≤ 0 ∨ 3 ≤ 3) := by decide
theorem test_hyps_ShowOverlayWritesTheOverlay :
    ((at_ 4294967294 up).ready ∧ Text.wf (str "a") = true ∧ 4294967294 = max (at_ 4294967294 up).clkLast (at_ 4294967294 up).env.clock.toNat
        ∧ 4294967294 + 1 < 2 ^ 32)
      ∧ ((at_ 4294967295 up).ready ∧ 2 ^ 32 ≤ 4294967295 + 1) ∧ up.callable ∧ ¬ (Text.wf [0x61, 0x00] = true ∧ Text.wf [] = true) := by decide
theorem test_hyps_PrintIsBackgroundOrOverlay :
    up.refused = false ∧ up.refusal = none ∧ up.ready ∧ Text.wf (str "X") = true ∧ up.readClock + 1000 < 2 ^ 32 ∧ 1000 ≠ 0 := by decide
theorem test_hyps_OverlayShowsItsTexts :
    up.ready ∧ up.Inv ∧ up.env.oe = true ∧ up.bus.panel.Synced ∧ up.bus.panel.lcd.s = false
      ∧ ∃ t, exec (.showOverlay (str "H") [] 9) up = .next t ∧ t.refused = false :=
  ⟨by decide, test_up_inv, rfl, test_up_synced, rfl, _, rfl, by decide⟩
theorem test_hyps_TickWithNothingDue :
    (up.ready ∧ 4294966845 + 450 < 2 ^ 32 ∧ up.clkLast ≤ 4294966845 ∧ up.ov.active = false ∧ up.row0.mode = .none)
      ∧ (let s := shown (rowOf "abcdefghijklmnop" 0 .fwd .bounce 0) (rowOf "abcdefghijklmnopq" 0 .fwd .loop 450)
         s.ready ∧ s.row0.content.length ≤ 16 ∧ 449 < s.row1.deadline)
      ∧ (State.ready { up with ov := ⟨true, 600⟩ } ∧ 599 < 600) := by decide
theorem test_hyps_TickExpiresTheOverlay :
    let s : State := { up with ov := ⟨true, 600⟩, clkLast := 599 }
    s.ready ∧ 600 + 450 < 2 ^ 32 ∧ s.clkLast ≤ 599 ∧ s.ov.active = true ∧ s.ov.expiry ≤ 600 ∧ 599 < s.ov.expiry := by decide
theorem test_hyps_TickStepsTheEligibleRows :
    let s := shown (rowOf "abcdefghijklmnopq" 0 .fwd .loop 450) (rowOf "abcdefghijklmnopq" 0 .fwd .bounce 451)
    s.ready ∧ 450 + 450 < 2 ^ 32 ∧ s.clkLast ≤ 450 ∧ s.ov.active = false
      ∧ ((s.row .row0).mode ≠ .none ∧ 16 < (s.row .row0).content.length ∧ (s.row .row0).deadline ≤ 450)
      ∧ ¬ ((s.row .row1).mode ≠ .none ∧ 16 < (s.row .row1).content.length ∧ (s.row .row1).deadline ≤ 450) := by decide
theorem test_hyps_ExpiryRestoresTheWindows :
    let s : State := { up with ov := ⟨true, 600⟩ }
    s.ready ∧ s.Inv ∧ s.env.oe = true ∧ s.bus.panel.Synced ∧ s.bus.panel.lcd.s = false ∧ s.ov.active = true ∧ s.ov.expiry ≤ 600
      ∧ ∃ t, exec (.tick 600) s = .next t ∧ t.refused = false :=
  ⟨by decide, ⟨by decide, by decide, by decide, by decide, by decide, by decide, by decide⟩, rfl, test_up_synced, rfl, rfl, by decide, _, rfl,
    by decide⟩
theorem test_hyps_StepRowBounces :
    let s (o : Nat) (dir : Dir) : State := { inTick with row0 := rowOf "abcdefghijklmnopqr" o dir .bounce 0 }
    ∀ x ∈ [(0, Dir.fwd), (1, .fwd), (1, .bwd), (2, .bwd)],
      (s x.1 x.2).inside 0x15 0 true ∧ (s x.1 x.2).row0.mode = .bounce ∧ 16 < (s x.1 x.2).row0.content.length
        ∧ 2 = (s x.1 x.2).row0.content.length - 16 ∧ (s x.1 x.2).row0.offset ≤ 2 := by decide
theorem test_hyps_StepRowLoops :
    let s : State := { inTick with row0 := rowOf "abcdefghijklmnopqr" 2 .fwd .loop 0, row1 := rowOf "abcdefghijklmnop" 0 .fwd .loop 0 }
    s.inside 0x15 0 true ∧ (s.row .row0).mode = .loop ∧ 16 < (s.row .row0).content.length ∧ (s.row .row1).content.length ≤ 16
      ∧ (inTick.row .row0).mode = .none := by decide
theorem test_hyps_RepeatedStepsBounceAndLoop :
    let rb (m : Mode) := rowOf "abcdefghijklmnopq" 0 .fwd m 0
    16 < (rb .bounce).content.length ∧ 1 = (rb .bounce).content.length - 16 ∧ (rb .bounce).offset = 0 ∧ (rb .bounce).dir = .fwd
      ∧ (rb .bounce).mode = .bounce ∧ (rb .loop).mode = .loop := by decide
theorem test_hyps_SchedulerFieldsHaveTheirWriters :
    (∃ t, exec (.showOverlay [] [] 9) (at_ 5 up) = .next t ∧ up.ov.active = false ∧ t.ov.active = true ∧ t.clkLast ≠ (at_ 5 up).clkLast)
      ∧ ∃ t, exec (.tick 9) { up with ov := ⟨true, 9⟩ } = .next t ∧ t.ov.active = false ∧ t.clkLast ≠ up.clkLast :=
  ⟨⟨_, rfl, rfl, by decide, by decide⟩, _, rfl, by decide, by decide⟩
theorem test_hyps_ARefusalWritesOnlyTheMark :
    (∃ t, exec .clear State.reset = .next t ∧ State.reset.refused = false ∧ t.refused = true)
      ∧ (Instr.clear.port = .host ∧ (Instr.stepRow .row0).port = .seq ∧ (up.mark .badOp none).refused = true)
      ∧ (given (up.mark .badOp none) (call [0x01])).inbox = [.record .host up.env [0x01]] := ⟨⟨_, rfl, rfl, rfl⟩, ⟨rfl, rfl, rfl⟩, rfl⟩
theorem test_hyps_GrammarRefusals :
    (given up (call [0x1F])).callable ∧ (0x1F : Byte).toNat ∈ [0x0D, 0x0E, 0x0F, 0x16, 0x17, 0x18, 0x19, 0x1A, 0x1B, 0x1C, 0x1D, 0x1E, 0x1F]
      ∧ (Instr.stepRow .row0).port = .seq ∧ recordOp (encode (.setCursor 256 0)) = some 0x03 ∧ ¬ (256 < 256 ∧ 0 < 256)
      ∧ recordOp (encode (.tick 4294967296)) = some 0x15 ∧ 2 ^ 32 ≤ 4294967296 ∧ (List.replicate 7 255).length ≠ 8
      ∧ (∀ b ∈ List.replicate 7 255, b < 256) ∧ (∃ b ∈ [0, 256], 256 ≤ b)
      ∧ recordOp (encode (.print [0x00] 5)) = some 0x11 ∧ Text.wf [0x00] = false
      ∧ (State.inside { inTick with inbox := [.record .seq up.env [0x18, 1, 1, 16]] } 0x15 0 true
        ∧ ¬ ((1 : Byte).toNat < 2 ∧ (1 : Byte).toNat < 2 ∧ (16 : Byte).toNat < 16) ∧ 2 ≤ (2 : Byte).toNat) := by decide
theorem test_hyps_TimeRefusals :
    State.ready { up with clkLast := 1000 } ∧ 999 < 1000 ∧ (1000 ≤ 4294966846 ∧ 2 ^ 32 ≤ 4294966846 + 450)
      ∧ 2 ^ 32 ≤ (at_ 4294967295 up).readClock + 1 ∧ Text.wf (str "a") = true := by decide
theorem test_hyps_RefusalPriority :
    (Instr.clear.port = .host ∧ inTick.refused = false ∧ inTick.seq ≠ .idle ∧ (given inTick (call [0x01])).inbox = [call [0x01]])
      ∧ (State.reset.seq = .idle ∧ (Instr.setCursor 256 0).wf = false ∧ State.reset.init = false ∧ Instr.clear.wf = true)
      ∧ (256 ≤ 256 ∧ Text.wf [0x00] = false ∧ 2 ^ 32 ≤ 4294967296 ∧ ([] : List Byte).length ≠ 8)
      ∧ (up.seq = .idle ∧ up.init = true) ∧ (State.ready { up with clkLast := 1000 } ∧ (Instr.tick 999).wf = true ∧ 999 < 1000) := by decide
theorem test_up_boundary : up.bus.panel.AtBoundary := ⟨rfl, rfl, by decide⟩
theorem test_hyps_ControllerCommandEffects :
    up.bus.panel.AtBoundary ∧ up.bus.panel.lcd.n = true ∧ encode .cmdClearDisplay = [0x01, 0] ∧ encode (.cmdReturnHome true) = [0x03, 0]
      ∧ encode (.cmdEntryModeSet true true) = [0x07, 0] ∧ encode (.cmdDisplayControl true true true) = [0x0F, 0]
      ∧ encode (.cmdCursorDisplayShift true true 3) = [0x1F, 0] ∧ encode (.cmdFunctionSet true true true 3) = [0x3F, 0]
      ∧ encode (.cmdSetCgramAddress 0x3F) = [0x7F, 0] ∧ encode (.cmdSetDdramAddress 0x7F) = [0xFF, 0] :=
  ⟨test_up_boundary, by decide⟩
theorem test_hyps_DataWriteEffect :
    (up.bus.panel.AtBoundary ∧ up.bus.panel.ok ∧ up.bus.panel.lcd.tgt = .ddram)
      ∧ (let s := upWith { inStep.lcd with ac := 63, tgt := .cgram }
         s.bus.panel.AtBoundary ∧ s.bus.panel.ok ∧ s.bus.panel.lcd.tgt = .cgram ∧ s.bus.panel.lcd.ac.toNat < 64) :=
  ⟨⟨test_up_boundary, by decide⟩, ⟨rfl, rfl, by decide⟩, by decide⟩
theorem test_hyps_RowsRunTheirBytes :
    (decodeController true 0xFF = .ok (.dataWrite 0xFF) ∧ decodeController false 0x2F = .ok (.cmdFunctionSet false true true 3))
      ∧ up.bus.panel.AtBoundary ∧ up.bus.panel.time.busy ≤ 1 ∧ (0x2F : Byte).extractLsb' 4 4 ≠ 0x3 := ⟨⟨rfl, rfl⟩, test_up_boundary, by decide⟩
theorem test_hyps_HandshakeNibblesStrobe :
    (3 ≤ (⟨0, 149, 3⟩ : LcdTime).hs ∧ 150 ≤ (⟨0, 149, 3⟩ : LcdTime).since + 1) ∧ ¬ 150 ≤ (⟨0, 148, 3⟩ : LcdTime).since + 1
      ∧ Panel.reset.lcd.sync = .unknown ∧ (inStep.lcd.sync = .sync4 ∧ inStep.lcd.phase = .hi)
      ∧ ({ inStep.lcd with phase := .lo } : Lcd).phase = .lo := by decide
theorem test_hyps_EveryStepKeepsTheInvariant : up.Inv ∧ ∃ t, step up = .next t := ⟨test_up_inv, _, rfl⟩
theorem test_hyps_TheTraceOnlyGrowsAndMovesTheController :
    (Instr.home.port = .host ∧ ∃ t, exec .home up = .next t)
      ∧ (Instr.renderRow .row0).port = .seq ∧ ∃ t, exec (.renderRow .row0) inTick = .next t := ⟨⟨rfl, _, rfl⟩, rfl, _, rfl⟩
theorem test_hyps_HostStepsKeepTheTraceConformant :
    (State.reset.TraceInv ∧ (given State.reset (call [0x00])).seq = .idle ∧ State.reset.bus.fed = State.reset.bus.trace ∧ State.reset.bus.misfed = false
        ∧ ∃ t, step (given State.reset (call [0x00])) = .next t)
      ∧ State.TraceInv { up with bus := { up.bus with trace := initEvents } } :=
  ⟨⟨rfl, rfl, rfl, rfl, _, rfl⟩, _, rfl, by decide, by decide, by decide⟩
theorem test_hyps_HostOperationsKeepTheControllerInStep :
    Instr.clear.port = .host ∧ up.bus.panel.Synced ∧ ∃ t, exec .clear up = .next t := ⟨rfl, test_up_synced, _, rfl⟩

end Sys2Proof.Tests
end

section
/-! PROOFS. The bus byte and the command bytes (spec 30_encoding.md R71, R72, R77 to R82, R93). Both are built by setting single bits, so two rules
of `bitAt` carry the file: which bits it has, and that setting a clear bit adds that bit's weight. -/

namespace Sys2Proof.Machine

/-! ### Setting one bit -/

@[simp] theorem getElem_bitAt (b : Bool) (k i : Nat) (hi : i < 8) : (bitAt b k)[i] = (b && decide (i = k)) := by
  cases b
  · simp [bitAt]
  · obtain hlt | hle := Nat.lt_or_ge i k
    · simp [bitAt, hlt, hlt.ne]
    · simp [bitAt, hle.not_gt, Nat.sub_eq_zero_iff_le, hle.ge_iff_eq']

theorem toNat_bitAt (b : Bool) {k : Nat} (hk : k < 8) : (bitAt b k).toNat = 2 ^ k * b.toNat := by
  cases b
  · simp [bitAt]
  · have hlt : 2 ^ k < 2 ^ 8 := Nat.pow_lt_pow_right (by decide) hk
    simpa [bitAt, Nat.shiftLeft_eq] using hlt

/-- Setting a bit that is clear adds its weight. -/
theorem toNat_or_bitAt {v : Byte} (b : Bool) {k : Nat} (hk : k < 8) (hv : v.getLsbD k = false) :
    (v ||| bitAt b k).toNat = v.toNat + 2 ^ k * b.toNat := by
  have hdisj : v &&& bitAt b k = 0#8 := by
    ext i hi
    obtain rfl | hne := eq_or_ne i k
    · simp [← BitVec.getLsbD_eq_getElem, hv]
    · simp [hne]
  rw [← BitVec.add_eq_or_of_and_eq_zero _ _ hdisj, BitVec.toNat_add_of_and_eq_zero hdisj, toNat_bitAt b hk]

/-! ### The bus byte -/

theorem pack_injective : Function.Injective pack := fun v w h =>
  Option.some_injective _ (by rw [← unpack_pack v, h, unpack_pack])

/-- 30_encoding.md R71: the bus byte as a sum. -/
theorem toNat_pack (w : BusWord) : (pack w).toNat = 128 * w.rs.toNat + 32 * w.e.toNat + 2 * w.n.toNat := by
  have hn : (w.n.setWidth 8 <<< 1).toNat = 2 * w.n.toNat := by
    have := w.n.isLt
    simp [Nat.shiftLeft_eq]
    omega
  have hcomm : pack w = w.n.setWidth 8 <<< 1 ||| bitAt w.e 5 ||| bitAt w.rs 7 := by
    rw [pack, BitVec.or_comm, BitVec.or_comm (bitAt w.rs 7), BitVec.or_assoc]
  rw [hcomm, toNat_or_bitAt _ (by decide) (by simp), toNat_or_bitAt _ (by decide) (by simp), hn]
  omega

/-- 30_encoding.md R72: nibble bit `k` goes to bus bit `k + 1`. -/
theorem getLsbD_pack_nibble (w : BusWord) {k : Nat} (hk : k < 4) : (pack w).getLsbD (k + 1) = w.n.getLsbD k := by
  rw [← pack_n w, BitVec.getLsbD_extractLsb', Nat.add_comm 1 k]
  simp [hk]

/-- A bus byte read back is the byte of its fields: the two bits no field holds are clear. -/
theorem pack_of_unpack {b : Byte} {w : BusWord} (h : unpack b = some w) : pack w = b := by
  unfold unpack at h
  split at h
  · cases h
  next hclear =>
    cases h
    obtain ⟨h6, h0⟩ : b[6] = false ∧ b[0] = false := by simpa using hclear
    ext i hi
    interval_cases i <;> simp [pack, h6, h0]

/-- The bytes that can be read back are those with bits 6 and 0 clear (30_encoding.md R73). -/
theorem exists_unpack_eq_some_iff (b : Byte) : (∃ w, unpack b = some w) ↔ b.getLsbD 6 = false ∧ b.getLsbD 0 = false := by
  simp [unpack]

/-- Reading back is the inverse of packing on the closed set (30_encoding.md R93). -/
theorem pack_eq_iff_unpack_eq_some (w : BusWord) (b : Byte) : pack w = b ↔ unpack b = some w :=
  ⟨fun h => h ▸ unpack_pack w, pack_of_unpack⟩

/-- 30_encoding.md R93: the closed set of bus bytes. -/
theorem exists_pack_eq_iff (b : Byte) : (∃ w, pack w = b) ↔ b.getLsbD 6 = false ∧ b.getLsbD 0 = false := by
  simp only [pack_eq_iff_unpack_eq_some, exists_unpack_eq_some_iff]

/-- Settles O8: `unpack` inverts `pack`, and it reads back exactly the bytes with bits 6 and 0 clear. -/
theorem busBytesHaveTheirLayout : Obligations.BusBytesHaveTheirLayout :=
  ⟨toNat_pack, fun w _ => getLsbD_pack_nibble w, exists_pack_eq_iff, fun _ _ h => pack_injective h⟩

/-! ### The command bytes -/

theorem toNat_ctlByte (d c b : Bool) : (ctlByte d c b).toNat = 8 + 4 * d.toNat + 2 * c.toNat + b.toNat := by
  rw [ctlByte, toNat_or_bitAt b (by decide) (by simp), toNat_or_bitAt c (by decide) (by simp),
    toNat_or_bitAt d (by decide) (by decide)]
  simp

theorem toNat_entByte (i s : Bool) : (entByte i s).toNat = 4 + 2 * i.toNat + s.toNat := by
  rw [entByte, toNat_or_bitAt s (by decide) (by simp), toNat_or_bitAt i (by decide) (by decide)]
  simp

theorem toNat_fnByte (dl n f : Bool) : (fnByte dl n f).toNat = 32 + 16 * dl.toNat + 8 * n.toNat + 4 * f.toNat := by
  rw [fnByte, toNat_or_bitAt f (by decide) (by simp), toNat_or_bitAt n (by decide) (by simp),
    toNat_or_bitAt dl (by decide) (by decide)]
  simp

/-- Bit 7 is forced to 1, so the address sent is `a` modulo 128 (30_encoding.md R80). -/
theorem ddaByte_mod (a : Nat) : ddaByte (a % 128) = ddaByte a := by
  ext i hi
  obtain hlow | rfl : i < 7 ∨ i = 7 := by omega
  · have hmod : (a % 2 ^ 7).testBit i = (decide (i < 7) && a.testBit i) := Nat.testBit_mod_two_pow a 7 i
    have hlow_bits : (BitVec.ofNat 8 (a % 128))[i] = (BitVec.ofNat 8 a)[i] := by
      simpa [← BitVec.getLsbD_eq_getElem, BitVec.getLsbD_ofNat, hi, hlow] using hmod
    simp [ddaByte, hlow_bits]
  · simp [ddaByte]

theorem toNat_ddaByte (a : Nat) : (ddaByte a).toNat = 128 + a % 128 := by
  have hlt : a % 128 < 2 ^ 7 := Nat.mod_lt a (by decide)
  have hsum := Nat.two_pow_add_eq_or_of_lt hlt 1
  rw [← ddaByte_mod, ddaByte, BitVec.toNat_or, BitVec.toNat_ofNat, Nat.mod_eq_of_lt (by omega)]
  exact hsum.symm

theorem toNat_cgaByte {s : Nat} (hs : s ≤ 7) : (cgaByte s).toNat = 64 + 8 * s := by
  have hlt : 8 * s < 2 ^ 6 := by omega
  have hsum := Nat.two_pow_add_eq_or_of_lt hlt 1
  have hslot : (BitVec.ofNat 8 s <<< 3).toNat = 8 * s := by
    simp [Nat.shiftLeft_eq]
    omega
  rw [cgaByte, BitVec.toNat_or, hslot]
  exact hsum.symm

/-- Settles O9: each field's bit is clear before it is set, and an address stays below the bit forced to 1. -/
theorem commandBytesHaveTheirValues : Obligations.CommandBytesHaveTheirValues :=
  ⟨toNat_ctlByte, toNat_entByte, toNat_fnByte, toNat_ddaByte, fun _ => toNat_cgaByte,
    by decide, by decide, by decide, by decide, by decide⟩

end Sys2Proof.Machine
end

section
/-! PROOFS. The Serial Bus Adapter inside an operation (spec 40_bus_adapter.md R100, R103, R105, 30_encoding.md R75): each primitive is the state
with the sequencer moved on and its events emitted, so that what it leaves is what its events leave. -/

namespace Sys2Proof.Machine

/-- Inside an operation a primitive leaves its field, moves the sequencer on by its events, and emits them (10_state.md R21, R37). -/
theorem exec_seq_inside {i : Instr} {s : State} {op k : Nat} {g : Bool} (hp : i.port = .seq) (h : s.inside op k g) :
    exec i s =
      .next (({ seqFields i s with seq := .inOp op (k + (seqEvents g i s).length) g } : State).emit (seqEvents g i s)) := by
  obtain ⟨hr, hq⟩ := h
  simp [exec_seq hp hr, hq, State.emit]

/-- A primitive that writes no field emits its events and does nothing else but move the sequencer. -/
theorem exec_seq_emits {i : Instr} {s : State} {op k : Nat} {g : Bool} (hp : i.port = .seq) (hf : seqFields i s = s)
    (h : s.inside op k g) :
    ∃ t, exec i s = .next t
      ∧ State.Emits { s with seq := .inOp op (k + (seqEvents g i s).length) g } (seqEvents g i s) t :=
  ⟨_, by rw [exec_seq_inside hp h, hf], emit_emits _ _⟩

/-- Settles O12: `SR` and `PAR` are those of the last byte that went over the link, which is the byte or, with the gate closed, none. -/
theorem transmitSendsItsByte : Obligations.TransmitSendsItsByte := by
  intro s op k g w h
  obtain ⟨t, ht, hemits⟩ := exec_seq_emits (i := .transmit w) rfl rfl h
  have hlast : ∀ old : Byte, (lastOpen (seqEvents g (.transmit w) s)).getD old = if g then pack w else old := by
    cases g <;> exact fun _ => rfl
  exact ⟨t, ht, hemits, hemits.bus.sr.trans (hlast _), hemits.bus.par.trans (hlast _)⟩

/-- Settles O13: the last byte of an Enable pulse has E low, and with the gate open it is what `PAR` holds. -/
theorem nibbleIsOneEnablePulse : Obligations.NibbleIsOneEnablePulse := by
  intro s op k g rs n h
  obtain ⟨t, ht, hemits⟩ := exec_seq_emits (i := .nibble rs n) rfl rfl h
  refine ⟨t, ht, hemits, ?_⟩
  rintro rfl
  have hpar : t.bus.par = pack ⟨rs, false, n⟩ := hemits.bus.par
  rw [hpar, pack_e]

/-- Settles O14: the events of SEND are those of its two nibble writes. -/
theorem sendIsTwoNibblesHighFirst : Obligations.SendIsTwoNibblesHighFirst := by
  intro s op k g rs v h
  exact exec_seq_emits (i := .send rs v) rfl rfl h

end Sys2Proof.Machine
end

section
/-! PROOFS. The output-enable gate (spec 40_bus_adapter.md R102). A host operation is refused, or it leaves `hostFields` with `hostEvents` emitted;
which of the two, and with which code, is `hostRefusal` (60_exceptions.md R250), and none of the three looks at the gate. -/

namespace Sys2Proof.Machine

/-! ### Why a call is refused -/

/-- What the operands of a call other than INITIALIZE are refused with, checked from left to right (60_exceptions.md R244, R250). -/
def operandRefusal : Instr → Option RefCode
  | .setCursor col row => firstBad [checkU8 col, checkU8 row]
  | .setCursorVisible v => firstBad [checkBool v]
  | .setScrollDirection d => firstBad [checkDir d]
  | .setAutoscroll v => firstBad [checkBool v]
  | .writeGlyph b => firstBad [checkU8 b]
  | .defineGlyph slot bitmap => firstBad [checkU8 slot, checkBitmap bitmap]
  | .showOverlay t0 t1 dur => firstBad [checkText t0, checkText t1, checkU32 dur]
  | .print text timeoutMs => firstBad [checkText text, checkU32 timeoutMs]
  | .setBackground row text => firstBad [checkU8 row, checkText text]
  | .setBackgroundRows upper lower => firstBad [checkText upper, checkText lower]
  | .setAnimationMode row mode => firstBad [checkU8 row, checkMode mode]
  | .tick now => firstBad [checkU32 now]
  | _ => none

/-- What the time checks of a call are refused with (42_scheduler.md R159, 60_exceptions.md R243). -/
def timeRefusal : Instr → State → Option RefCode
  | .showOverlay _ _ dur, s => if Config.timeLimit ≤ s.readClock + dur then some .timeRange else none
  | .print _ timeoutMs, s =>
    if timeoutMs = 0 then none else if Config.timeLimit ≤ s.readClock + timeoutMs then some .timeRange else none
  | .tick now, s =>
    if now < s.clkLast then some .timeBackward
    else if Config.timeLimit ≤ now + Config.stepInterval then some .timeRange
    else none
  | _, _ => none

/-- What a call other than INITIALIZE is refused with, in the order of 60_exceptions.md R250. -/
def hostRefusal (i : Instr) (s : State) : Option RefCode :=
  firstBad [if s.seq = .idle then none else some .reentrant, operandRefusal i, if s.init then none else some .uninit, timeRefusal i s]

theorem operandRefusal_none {i : Instr} (hp : i.port = .host) : operandRefusal i = none ↔ i.wf = true := by
  cases i <;>
    simp [operandRefusal, Instr.wf, Instr.port, firstBad_cons_none, checkU8_none, checkBool_none, checkDir_none, checkMode_none,
      checkU32_none, checkText_none, checkBitmap_none, and_assoc] at hp ⊢

theorem timeRefusal_none {i : Instr} {s : State} : timeRefusal i s = none ↔ timesPass i s := by
  cases i
  case print text timeoutMs =>
    by_cases hz : timeoutMs = 0 <;> simp [timeRefusal, timesPass, hz]
  case tick now =>
    obtain hback | hforward := Nat.lt_or_ge now s.clkLast
    · simp [timeRefusal, timesPass, hback, hback.not_ge]
    · simp [timeRefusal, timesPass, hforward, hforward.not_gt]
      omega
  all_goals simp [timeRefusal, timesPass]

/-- Whether a call is refused, and with which code, does not depend on the gate: of the inputs only the clock reading is looked at. -/
theorem hostRefusal_env (i : Instr) (s : State) (e : Env) (he : e.clock = s.env.clock) :
    hostRefusal i { s with env := e } = hostRefusal i s := by
  have hclock : ({ s with env := e } : State).readClock = s.readClock := by simp only [State.readClock, he]
  have htime : timeRefusal i { s with env := e } = timeRefusal i s := by
    cases i <;> simp only [timeRefusal, hclock]
  simp only [hostRefusal, htime]

/-! ### A call is refused with its code, or it runs -/

/-- A call with the common prelude is refused with the first code of the prelude or, where its body has refusals of its own, of the body. -/
theorem initialized_refuses {op : Nat} {bad late : Option RefCode} {body : State → Result} {s : State} {c : RefCode}
    (hr : s.refused = false) (hlate : ∀ c, late = some c → body s = refuse c op s)
    (h : firstBad [if s.seq = .idle then none else some .reentrant, bad, if s.init then none else some .uninit, late] = some c) :
    initialized op bad body s = .next (s.mark c (some op)) := by
  by_cases hq : s.seq = .idle
  · cases bad with
    | some b =>
      obtain rfl : b = c := by simpa [hq] using h
      exact hostCall_bad ⟨hr, hq⟩
    | none =>
      by_cases hi : s.init = true
      · have hc : late = some c := by cases late <;> simp_all
        rw [initialized_ready ⟨hr, hq, hi⟩, hlate c hc, refuse]
      · obtain rfl : RefCode.uninit = c := by simpa [hq, hi] using h
        simp [initialized, hostCall, hr, hq, hi, refuse]
  · obtain rfl : RefCode.reentrant = c := by simpa [hq] using h
    simp [initialized, hostCall, hr, hq, refuse]

/-- `hostRefusal` is the code of the machine: each meaning is the common prelude on its operand checks, and its body begins with its time checks. -/
theorem exec_host_refuses {i : Instr} {s : State} {c : RefCode} (hp : i.port = .host) (hn : i ≠ .opInitialize)
    (hr : s.refused = false) (h : hostRefusal i s = some c) : exec i s = .next (s.mark c (recordOp (encode i))) := by
  cases i <;> simp [Instr.port] at hp
  case opInitialize => exact absurd rfl hn
  all_goals
    simp only [exec, execClear, execHome, execSetCursor, execDisplayOn, execDisplayOff, execSetCursorVisible, execBlinkOn, execBlinkOff,
      execSetScrollDirection, execSetAutoscroll, execWriteGlyph, execDefineGlyph, execShowOverlay, execPrint, execSetBackground,
      execSetBackgroundRows, execSetAnimationMode, execTick]
    refine initialized_refuses hr (fun c hc => ?_) h
    simp only [timeRefusal, reduceCtorEq] at hc
  case showOverlay t0 t1 dur =>
    obtain ⟨hlate, rfl⟩ : _ ∧ RefCode.timeRange = c := by simpa using hc
    simp [showOverlayBody, hlate]
  case print text ms =>
    obtain ⟨hz, hlate, rfl⟩ : _ ∧ _ ∧ RefCode.timeRange = c := by simpa using hc
    simp [showOverlayBody, hz, hlate]
  case tick now =>
    by_cases hback : now < s.clkLast
    · obtain rfl : RefCode.timeBackward = c := by simpa [hback] using hc
      simp [tickBody, hback]
    · obtain ⟨hlate, rfl⟩ : _ ∧ RefCode.timeRange = c := by simpa [hback] using hc
      simp [tickBody, hback, hlate]

/-- Together with `exec_host_refuses` this is all a call other than INITIALIZE can do while the run has not ended. -/
theorem exec_host_passes {i : Instr} {s : State} (hp : i.port = .host) (hn : i ≠ .opInitialize)
    (hr : s.refused = false) (h : hostRefusal i s = none) :
    exec i s = .next ((hostFields i s).emit (hostEvents s.env.oe i s)) := by
  simp only [hostRefusal, firstBad_cons_none, ite_eq_left_iff, reduceCtorEq, imp_false, not_not] at h
  obtain ⟨hq, hoperands, hi, htimes, -⟩ := h
  have hgate : hostGate i s = s.env.oe := if_neg hn
  rw [← hgate]
  exact exec_host_runs hp hr hq ((operandRefusal_none hp).mp hoperands) (by simp [hi, hn]) (timeRefusal_none.mp htimes)

/-! ### The same call under another gate value -/

theorem exec_host_refuses_env {i : Instr} {s : State} {c : RefCode} {e : Env} (hp : i.port = .host) (hn : i ≠ .opInitialize)
    (he : e.clock = s.env.clock) (hr : s.refused = false) (h : hostRefusal i s = some c) :
    exec i { s with env := e } = .next (({ s with env := e } : State).mark c (recordOp (encode i))) :=
  exec_host_refuses hp hn hr ((hostRefusal_env i s e he).trans h)

/-- 40_bus_adapter.md R102: under every gate value the fields are those of the call in `s`, and only how its events are recorded differs. -/
theorem exec_host_passes_env {i : Instr} {s : State} {e : Env} (hp : i.port = .host) (hn : i ≠ .opInitialize)
    (he : e.clock = s.env.clock) (hr : s.refused = false) (h : hostRefusal i s = none) :
    exec i { s with env := e } =
      .next (({ hostFields i s with env := e } : State).emit ((hostEvents true i s).map (Event.gate e.oe))) := by
  rw [exec_host_passes (s := { s with env := e }) hp hn hr ((hostRefusal_env i s e he).trans h), hostFields_env i s e he, hostEvents_env,
    hostEvents_gate hn]

/-- Settles O15: under either gate value the call is refused with the same code, or it leaves the same fields and emits the same events, which gated
move no line. -/
theorem closedGateMovesNoLine : Obligations.ClosedGateMovesNoLine := by
  intro i s t hp hn hoe h
  have hr : s.refused = false := (exec_host_next hp h).1
  cases hc : hostRefusal i s with
  | some c =>
    rw [exec_host_refuses hp hn hr hc] at h
    cases h
    exact ⟨rfl, rfl, rfl, rfl, _, [], exec_host_refuses_env hp hn rfl hr hc, (List.append_nil _).symm, (List.append_nil _).symm, rfl⟩
  | none =>
    rw [exec_host_passes_env (e := s.env) hp hn rfl hr hc, hoe] at h
    cases h
    have hbus : (hostFields i s).bus = s.bus := (hostFields_keeps i s).2.1
    obtain ⟨hsr, hpar, hlines, hlcd⟩ := play_gated s.bus _ (allGated_gate (hostEvents true i s))
    simp only [State.emit_bus, hbus]
    exact ⟨hsr, hpar, hlines, hlcd, _, _, exec_host_passes_env hp hn rfl hr hc,
      by simp only [State.emit_bus, hbus, play_trace], play_trace _ _, by simp only [State.emit, hbus]⟩

end Sys2Proof.Machine
end

section
/-! PROOFS. The Controller Protocol Driver (spec 41_controller_driver.md R120 to R136). A driver operation in a ready state leaves `hostFields` with
`hostEvents` emitted (`exec_host_runs`), and otherwise it is refused with `hostRefusal` (60_exceptions.md R250); each operation's proof says what
these three are for it. -/

namespace Sys2Proof.Machine

/-! ### A call that runs, and the two refusals before its time checks -/

/-- In a ready state an operation on operands of their kinds leaves its fields and emits its events, and does nothing else. -/
theorem exec_host_emits {i : Instr} {s : State} (hp : i.port = .host) (hn : i ≠ .opInitialize) (hw : i.wf = true) (ht : timesPass i s)
    (h : s.ready) : ∃ t, exec i s = .next t ∧ (hostFields i s).Emits (hostEvents s.env.oe i s) t := by
  obtain ⟨hr, hq, hi⟩ := h
  have hgate : hostGate i s = s.env.oe := if_neg hn
  refine ⟨_, exec_host_runs hp hr hq hw (by simp [hi, hn]) ht, ?_⟩
  rw [hgate]
  exact emit_emits _ _

/-- Between operations a bad operand is refused whether or not INITIALIZE has completed (60_exceptions.md R250). -/
theorem exec_operandRefusal {i : Instr} {s : State} {c : RefCode} (hp : i.port = .host) (hn : i ≠ .opInitialize)
    (h : s.callable) (hc : operandRefusal i = some c) : exec i s = .next (s.mark c (recordOp (encode i))) :=
  exec_host_refuses hp hn h.1 (by simp [hostRefusal, h.2, hc])

/-- Before INITIALIZE has completed, every other operation on operands of their kinds is refused `RF_UNINIT` (60_exceptions.md R242). -/
theorem refusesUninit {i : Instr} {s : State} {op : Nat} (hp : i.port = .host) (hn : i ≠ .opInitialize)
    (hop : recordOp (encode i) = some op) (hw : i.wf = true) : RefusesUninit i op s := by
  intro h hi
  have hoperands : operandRefusal i = none := (operandRefusal_none hp).mpr hw
  rw [← hop]
  exact exec_host_refuses hp hn h.1 (by simp [hostRefusal, h.2, hoperands, hi])

/-! ### What a bad operand is refused with -/

theorem checkBelow_argRange {bound n : Nat} (h : bound ≤ n) : checkBelow bound n = some .argRange := if_neg h.not_gt

theorem firstBad_below {bound n : Nat} (h : bound ≤ n) : firstBad [checkBelow bound n] = some .argRange := by
  rw [checkBelow_argRange h, firstBad_some]

/-- Of two operands of a `u8` it does not matter which is outside its kind. -/
theorem firstBad_u8_u8 {m n : Nat} (h : 256 ≤ m ∨ 256 ≤ n) : firstBad [checkU8 m, checkU8 n] = some .argRange := by
  obtain hm | hm := Nat.lt_or_ge m 256
  · have hn : 256 ≤ n := h.resolve_left hm.not_ge
    rw [checkU8_none.mpr hm, checkU8, checkBelow_argRange hn, firstBad_none, firstBad_some]
  · rw [checkU8, checkBelow_argRange hm, firstBad_some]

/-- A bitmap of bytes is refused for its length alone (30_encoding.md R88). -/
theorem checkBitmap_length {m : List Nat} (hb : ∀ b ∈ m, b < 256) (hl : m.length ≠ 8) : checkBitmap m = some .bitmapLen := by
  have hall : m.all (fun n => decide (n < 256)) = true := by simpa using hb
  rw [checkBitmap, if_pos hall, if_neg hl]

/-- A number that is no byte is refused as an operand outside its kind (30_encoding.md R87). -/
theorem checkBitmap_argRange {m : List Nat} (hb : ∃ b ∈ m, 256 ≤ b) : checkBitmap m = some .argRange := by
  have hall : ¬ m.all (fun n => decide (n < 256)) = true := by simpa using hb
  rw [checkBitmap, if_neg hall]

/-! ### INITIALIZE -/

theorem exec_opInitialize_refused {s : State} (h : s.refused = true) : exec .opInitialize s = .fault .runEnded := by
  rw [exec, execInitialize, hostCall_refused h]

theorem exec_opInitialize_reinit {s : State} (h : s.callable) (hi : s.init = true) :
    exec .opInitialize s = .next (s.mark .reinit (some 0x00)) := by
  rw [exec, execInitialize, hostCall_open h, if_pos hi, refuse]

/-- INITIALIZE looks neither at the gate nor at the controller (41_controller_driver.md R120). -/
theorem exec_opInitialize_emits {s : State} (h : s.callable) (hi : s.init = false) :
    ∃ t, exec .opInitialize s = .next t ∧ s.initFields.Emits initEvents t :=
  ⟨_, exec_host_runs rfl h.1 h.2 rfl hi trivial, emit_emits _ _⟩

/-- Settles O18: the events are those of `initEvents`, whose command bytes are the three groups' defaults and clear. -/
theorem initializeRunsTheHandshake : Obligations.InitializeRunsTheHandshake := by
  intro s
  exact ⟨exec_opInitialize_refused, exec_opInitialize_reinit, exec_opInitialize_emits, by decide⟩

/-! ### CLEAR and HOME -/

/-- Settles O21: both write no field. -/
theorem clearAndHomeSendTheirByte : Obligations.ClearAndHomeSendTheirByte := fun _ =>
  ⟨exec_host_emits rfl nofun rfl trivial, exec_host_emits rfl nofun rfl trivial,
    refusesUninit rfl nofun rfl rfl, refusesUninit rfl nofun rfl rfl⟩

/-! ### SET_CURSOR -/

/-- With the layout INITIALIZE sets, row 0 starts at 0 and every other row, clamped to row 1, at 0x40 (10_state.md R26). -/
theorem cursorAddress_of_layout {s : State} (hlayout : s.layoutOk) (hi : s.init = true) (col row : Nat) :
    s.cursorAddress col row = col + if row = 0 then 0 else 64 := by
  obtain ⟨hoffsets, hlines, -⟩ := hlayout.2 hi
  rw [State.cursorAddress, hoffsets, hlines]
  cases row with
  | zero => rfl
  | succ row =>
    have hclamp : clampLine 2 (row + 1) = 1 := by simp [clampLine]
    rw [hclamp]
    rfl

/-- Settles O22: the one command is `DDA` of the cursor address. -/
theorem setCursorSendsItsAddress : Obligations.SetCursorSendsItsAddress := by
  intro s col row
  refine ⟨fun h hcol hrow => ?_, fun hcol hrow => refusesUninit rfl nofun rfl (by simp [Instr.wf, hcol, hrow]),
    fun h hbad => exec_operandRefusal rfl nofun h (firstBad_u8_u8 hbad)⟩
  obtain ⟨t, ht, hemits⟩ :=
    exec_host_emits (i := .setCursor col row) rfl nofun (by simp [Instr.wf, hcol, hrow]) trivial h
  refine ⟨t, ht, hemits, fun hlayout => ⟨ddaByte (s.cursorAddress col row), hemits.bus.trace, ?_⟩⟩
  rw [toNat_ddaByte, cursorAddress_of_layout hlayout h.2.2]

/-! ### The flag operations -/

/-- Settles O23: `writeCtl` writes the flag before it sends the group, so the byte holds the new flag and the two others. -/
theorem controlFlagOpsSendTheGroup : Obligations.ControlFlagOpsSendTheGroup := by
  intro s v
  have hw : v < 2 → (Instr.setCursorVisible v).wf = true := decide_eq_true
  exact ⟨exec_host_emits rfl nofun rfl trivial, exec_host_emits rfl nofun rfl trivial,
    fun h hv => exec_host_emits rfl nofun (hw hv) trivial h, exec_host_emits rfl nofun rfl trivial,
    exec_host_emits rfl nofun rfl trivial, refusesUninit rfl nofun rfl rfl, refusesUninit rfl nofun rfl rfl,
    refusesUninit rfl nofun rfl rfl, refusesUninit rfl nofun rfl rfl, fun hv => refusesUninit rfl nofun rfl (hw hv),
    fun h hv => exec_operandRefusal rfl nofun h (firstBad_below hv)⟩

/-- Settles O24: as for the control flags, with the group of the entry mode. -/
theorem entryFlagOpsSendTheGroup : Obligations.EntryFlagOpsSendTheGroup := by
  intro s v
  have hdir : v < 2 → (Instr.setScrollDirection v).wf = true := decide_eq_true
  have hauto : v < 2 → (Instr.setAutoscroll v).wf = true := decide_eq_true
  exact ⟨fun h hv => exec_host_emits rfl nofun (hdir hv) trivial h, fun h hv => exec_host_emits rfl nofun (hauto hv) trivial h,
    fun hv => ⟨refusesUninit rfl nofun rfl (hdir hv), refusesUninit rfl nofun rfl (hauto hv)⟩,
    fun h hv => ⟨exec_operandRefusal rfl nofun h (firstBad_below hv), exec_operandRefusal rfl nofun h (firstBad_below hv)⟩⟩

/-! ### WRITE_GLYPH and DEFINE_GLYPH -/

/-- Settles O25: WRITE_GLYPH writes no field. -/
theorem writeGlyphSendsItsByte : Obligations.WriteGlyphSendsItsByte := by
  intro s b
  have hw : b < 256 → (Instr.writeGlyph b).wf = true := decide_eq_true
  exact ⟨fun h hb => exec_host_emits rfl nofun (hw hb) trivial h, fun hb => refusesUninit rfl nofun rfl (hw hb),
    fun h hb => exec_operandRefusal rfl nofun h (firstBad_below hb)⟩

/-- The CGRAM address of a clamped slot needs no more than the six bits the command has (30_encoding.md R81). -/
theorem cgaByte_clampSlot (slot : Nat) : cgaByte (clampSlot slot) = BitVec.ofNat 8 (0x40 + 8 * min slot 7) := by
  have hslot : min slot 7 ≤ 7 := Nat.min_le_right slot 7
  apply BitVec.eq_of_toNat_eq
  rw [clampSlot, toNat_cgaByte hslot, BitVec.toNat_ofNat, Nat.mod_eq_of_lt (by omega)]

theorem wf_defineGlyph {slot : Nat} {bytes : List Byte} (hs : slot < 256) (hl : bytes.length = 8) :
    (Instr.defineGlyph slot (bytes.map BitVec.toNat)).wf = true := by
  have hbytes : ∀ b ∈ bytes, b.toNat < 256 := fun b _ => b.isLt
  simpa [Instr.wf, Bitmap.wf, hs, hl] using hbytes

/-- Numbers that are bytes are sent as those bytes, unmasked (41_controller_driver.md R134). -/
theorem hostEvents_defineGlyph (g : Bool) (slot : Nat) (bytes : List Byte) (s : State) :
    hostEvents g (.defineGlyph slot (bytes.map BitVec.toNat)) s =
      sendEvents g false (BitVec.ofNat 8 (0x40 + 8 * min slot 7)) ++ bytes.flatMap (sendEvents g true) := by
  have hbytes : (bytes.map BitVec.toNat).map (BitVec.ofNat 8) = bytes := by
    simp [Function.comp_def]
  rw [hostEvents, cgaByte_clampSlot, hbytes]
  rfl

/-- Settles O26: the operands are checked from left to right, the slot first, and of the bitmap its numbers before its length. -/
theorem defineGlyphSendsItsBitmap : Obligations.DefineGlyphSendsItsBitmap := by
  intro s slot b0 b1 b2 b3 b4 b5 b6 b7
  have hrefusal {bitmap : List Nat} {c : RefCode} (h : s.callable) (hs : slot < 256) (hc : checkBitmap bitmap = some c) :
      exec (.defineGlyph slot bitmap) s = .next (s.mark c (some 0x0C)) :=
    exec_operandRefusal rfl nofun h (by rw [operandRefusal, checkU8_none.mpr hs, hc, firstBad_none, firstBad_some])
  refine ⟨fun h hs => ?_, fun hs => refusesUninit rfl nofun rfl (wf_defineGlyph hs rfl),
    fun _ h hs hb hl => hrefusal h hs (checkBitmap_length hb hl), fun _ h hs _ hb => hrefusal h hs (checkBitmap_argRange hb)⟩
  obtain ⟨t, ht, hemits⟩ :=
    exec_host_emits (i := .defineGlyph slot ([b0, b1, b2, b3, b4, b5, b6, b7].map BitVec.toNat)) rfl nofun (wf_defineGlyph hs rfl) trivial h
  rw [hostEvents_defineGlyph] at hemits
  exact ⟨t, ht, hemits⟩

/-! ### What any instruction that goes on can do -/

/-- An internal primitive writes no field but the two rows. -/
theorem seqFields_rows (i : Instr) (s : State) : ∃ r0 r1, seqFields i s = { s with row0 := r0, row1 := r1 } := by
  cases i
  case stepRow r => cases r <;> exact ⟨_, _, rfl⟩
  all_goals exact ⟨_, _, rfl⟩

theorem exec_seq_refused {i : Instr} {s : State} (hp : i.port = .seq) (h : s.refused = true) : exec i s = .fault .runEnded := by
  cases i <;> simp [Instr.port] at hp
  all_goals exact if_pos h

/-- An internal primitive that goes on ran inside an operation, or the host had issued it and was refused. -/
theorem exec_seq_next {i : Instr} {s t : State} (hp : i.port = .seq) (h : exec i s = .next t) :
    (∃ c op, t = s.mark c op) ∨ ∃ evs q, t = { (seqFields i s).emit evs with seq := q } := by
  have hr : s.refused = false := by
    by_contra hr
    rw [exec_seq_refused hp (by simpa using hr)] at h
    cases h
  rw [exec_seq hp hr] at h
  cases hq : s.seq with
  | idle =>
    rw [hq] at h
    exact .inl ⟨_, _, (Host.Outcome.next.inj h).symm⟩
  | inOp o k g =>
    rw [hq] at h
    exact .inr ⟨_, _, (Host.Outcome.next.inj h).symm⟩

/-- The rows of the table below the host's level are feeds of the controller (10_state.md R20). -/
theorem exec_line_feeds {i : Instr} (s : State) (hh : i.port ≠ .host) (hq : i.port ≠ .seq) : ∃ evs, exec i s = .next (s.feed evs) := by
  cases i <;> simp [Instr.port] at hh hq
  all_goals exact ⟨_, rfl⟩

/-- What any instruction that goes on leaves: a host operation that ran its fields and its events, a call that was refused the mark, and every
other instruction nothing of the Driver's, the overlay's or the clock's. -/
theorem exec_next_cases {i : Instr} {s t : State} (h : exec i s = .next t) :
    (i.port = .host ∧ i.wf = true ∧ ∃ evs, t = (hostFields i s).emit evs)
      ∨ (∃ c op, t = s.mark c op)
      ∨ (i.port ≠ .host ∧ ∃ r0 r1 bus q, t = { s with row0 := r0, row1 := r1, bus := bus, seq := q }) := by
  by_cases hh : i.port = .host
  · obtain ⟨-, ⟨c, ht⟩ | ⟨-, hw, -, -, ht⟩⟩ := exec_host_next hh h
    · exact .inr (.inl ⟨c, _, ht⟩)
    · exact .inl ⟨hh, hw, _, ht⟩
  by_cases hq : i.port = .seq
  · obtain hmark | ⟨evs, q, ht⟩ := exec_seq_next hq h
    · exact .inr (.inl hmark)
    · obtain ⟨r0, r1, hrows⟩ := seqFields_rows i s
      exact .inr (.inr ⟨hh, r0, r1, _, q, by rw [ht, hrows]; rfl⟩)
  · obtain ⟨evs, hfeed⟩ := exec_line_feeds s hh hq
    rw [hfeed] at h
    exact .inr (.inr ⟨hh, _, _, _, _, (Host.Outcome.next.inj h).symm⟩)

/-! ### Who writes the Driver's fields -/

/-- PRINT writes the first row or the overlay (42_scheduler.md R168). -/
theorem hostFields_print (text : Text) (ms : Nat) (s : State) :
    ∃ r0 o k, hostFields (.print text ms) s = { s with row0 := r0, ov := o, clkLast := k } := by
  by_cases hz : ms = 0
  · exact ⟨_, _, _, if_pos hz⟩
  · exact ⟨_, _, _, if_neg hz⟩

/-- TICK writes the clock mark, and the overlay or the rows (42_scheduler.md R169). -/
theorem hostFields_tick (now : Nat) (s : State) :
    ∃ r0 r1 o k, hostFields (.tick now) s = { s with row0 := r0, row1 := r1, ov := o, clkLast := k } := by
  rw [hostFields]
  split
  · split <;> exact ⟨_, _, _, _, rfl⟩
  · exact ⟨_, _, _, _, rfl⟩

/-- 10_state.md R23: the operations that write `ctl`. -/
theorem hostFields_ctl_writers {i : Instr} {s : State} (hw : i.wf = true) (h : (hostFields i s).ctl ≠ s.ctl) :
    i ∈ [.opInitialize, .displayOn, .displayOff, .setCursorVisible 0, .setCursorVisible 1, .blinkOn, .blinkOff] := by
  cases i
  case opInitialize | displayOn | displayOff | blinkOn | blinkOff => decide
  case setCursorVisible v =>
    have hv : v < 2 := of_decide_eq_true hw
    interval_cases v <;> decide
  case print text ms =>
    obtain ⟨r0, o, k, hf⟩ := hostFields_print text ms s
    exact absurd (congrArg State.ctl hf) h
  case tick now =>
    obtain ⟨r0, r1, o, k, hf⟩ := hostFields_tick now s
    exact absurd (congrArg State.ctl hf) h
  all_goals simp [hostFields] at h

/-- 10_state.md R24: the operations that write `ent`. -/
theorem hostFields_ent_writers {i : Instr} {s : State} (hw : i.wf = true) (h : (hostFields i s).ent ≠ s.ent) :
    i ∈ [.opInitialize, .setScrollDirection 0, .setScrollDirection 1, .setAutoscroll 0, .setAutoscroll 1] := by
  cases i
  case opInitialize => decide
  case setScrollDirection v | setAutoscroll v =>
    have hv : v < 2 := of_decide_eq_true hw
    interval_cases v <;> decide
  case print text ms =>
    obtain ⟨r0, o, k, hf⟩ := hostFields_print text ms s
    exact absurd (congrArg State.ent hf) h
  case tick now =>
    obtain ⟨r0, r1, o, k, hf⟩ := hostFields_tick now s
    exact absurd (congrArg State.ent hf) h
  all_goals simp [hostFields] at h

/-- 10_state.md R25 to R28: only INITIALIZE writes the layout and `init`. -/
theorem hostFields_layout {i : Instr} (s : State) (hn : i ≠ .opInitialize) :
    (hostFields i s).fn = s.fn ∧ (hostFields i s).rowOffsets = s.rowOffsets ∧ (hostFields i s).numLines = s.numLines
      ∧ (hostFields i s).init = s.init := by
  cases i
  case opInitialize => exact absurd rfl hn
  case print text ms =>
    obtain ⟨r0, o, k, hf⟩ := hostFields_print text ms s
    simp [hf]
  case tick now =>
    obtain ⟨r0, r1, o, k, hf⟩ := hostFields_tick now s
    simp [hf]
  all_goals simp [hostFields]

/-- No operation of the Driver, which are those up to op code 0x0C (30_encoding.md R86), writes a RowBuffer, OverlayState or the clock mark. -/
theorem hostFields_driver {i : Instr} (s : State) {op : Nat} (hp : i.port = .host) (hop : recordOp (encode i) = some op) (hle : op ≤ 0x0C) :
    (hostFields i s).row0 = s.row0 ∧ (hostFields i s).row1 = s.row1 ∧ (hostFields i s).ov = s.ov
      ∧ (hostFields i s).clkLast = s.clkLast := by
  cases i <;> simp [Instr.port] at hp
  case showOverlay | print | setBackground | setBackgroundRows | setAnimationMode | tick =>
    cases hop
    exact absurd hle (by decide)
  all_goals exact ⟨rfl, rfl, rfl, rfl⟩

/-- CLEAR, HOME, SET_CURSOR, WRITE_GLYPH and DEFINE_GLYPH write no field (41_controller_driver.md R136). -/
theorem hostFields_byteOp {i : Instr} (s : State)
    (h : i ∈ [.clear, .home] ∨ (∃ c r, i = .setCursor c r) ∨ (∃ b, i = .writeGlyph b) ∨ (∃ k m, i = .defineGlyph k m)) :
    i.port = .host ∧ hostFields i s = s := by
  simp only [List.mem_cons, List.not_mem_nil, or_false] at h
  obtain (rfl | rfl) | ⟨c, r, rfl⟩ | ⟨b, rfl⟩ | ⟨k, m, rfl⟩ := h <;> exact ⟨rfl, rfl⟩

/-- Settles O27: of what an instruction that goes on can leave, only the fields of a host operation that ran write anything of the Driver's. -/
theorem driverFieldsHaveTheirWriters : Obligations.DriverFieldsHaveTheirWriters := by
  intro i s t h
  obtain ⟨hp, hw, evs, rfl⟩ | ⟨c, op, rfl⟩ | ⟨hp, r0, r1, bus, q, rfl⟩ := exec_next_cases h
  · refine ⟨hostFields_ctl_writers hw, hostFields_ent_writers hw, hostFields_layout s, fun hbyte => ?_,
      fun ⟨_, hop, hle⟩ _ => hostFields_driver s hp hop hle⟩
    rw [(hostFields_byteOp s hbyte).2]
    rfl
  · exact ⟨absurd rfl, absurd rfl, fun _ => ⟨rfl, rfl, rfl, rfl⟩, fun _ => rfl, fun _ _ => ⟨rfl, rfl, rfl, rfl⟩⟩
  · exact ⟨absurd rfl, absurd rfl, fun _ => ⟨rfl, rfl, rfl, rfl⟩, fun hbyte => absurd (hostFields_byteOp s hbyte).1 hp,
      fun _ hhost => absurd hhost hp⟩

end Sys2Proof.Machine
end

section
/-! PROOFS. The Overlay/Scroll Scheduler (spec 42_scheduler.md R162 to R175). The host's operations are read off `hostFields` and `hostEvents`, as
the Driver's are; a background write is `setBackgroundBody`, alone, twice, or as PRINT's first branch. -/

namespace Sys2Proof.Machine

/-! ### Windows and renders -/

theorem window_of_long {rb : RowBuffer} (h : 16 < rb.content.length) : rb.window = (rb.content.drop rb.offset).take 16 := if_pos h

theorem window_of_short {rb : RowBuffer} (h : rb.content.length ≤ 16) :
    rb.window = rb.content ++ List.replicate (16 - rb.content.length) 0x20 := if_neg h.not_gt

/-- Settles O31: byte by byte, the window of a long text is a slice of it, and that of a short text the text and then the padding. -/
theorem windowIsSixteenBytes : Obligations.WindowIsSixteenBytes := by
  intro rb hok
  refine ⟨window_length hok, fun hlong i hi => ?_, fun hshort i hi => ?_⟩
  · rw [window_of_long hlong, List.getElem?_take_of_lt hi, List.getElem?_drop]
  · rw [window_of_short hshort]
    obtain htext | hpad := Nat.lt_or_ge i rb.content.length
    · rw [List.getElem?_append_left htext, List.getElem?_eq_getElem htext, Option.getD_some]
    · rw [List.getElem?_append_right hpad, List.getElem?_replicate, if_pos (by omega), List.getElem?_eq_none hpad, Option.getD_none]

theorem ddaByte_toNat (b : Byte) : ddaByte b.toNat = 0x80 ||| b := by rw [ddaByte, BitVec.ofNat_toNat, BitVec.setWidth_eq]

/-- A byte is eight events (40_bus_adapter.md R103, R105). -/
theorem length_rowEvents {rb : RowBuffer} (h : rb.ok) (g : Bool) (base : Byte) : (rowEvents g base rb).length = 8 * 17 := by
  have hbyte : ∀ rs v, (sendEvents g rs v).length = 8 := fun _ _ => rfl
  simp [rowEvents, cmdEvents, textEvents, dataEvents, List.length_flatMap, hbyte, window_length h]

/-- Settles O32: RENDER_ROW writes no field, and its events are the address of the row and then its window. -/
theorem renderRowSendsTheWindow : Obligations.RenderRowSendsTheWindow := by
  intro s op k g r h hok
  obtain ⟨t, ht, hemits⟩ := exec_seq_emits (i := .renderRow r) rfl rfl h
  have hevents : seqEvents g (.renderRow r) s = rowEvents g (s.rowOffsets.at (rowNumber r)) (s.row r) := renderEvents_eq s g r
  rw [hevents, length_rowEvents hok, rowEvents, ddaByte_toNat] at hemits
  refine ⟨t, _, ht, rfl, window_length hok, ?_⟩
  cases r <;> exact hemits

/-! ### Calls -/

/-- In a ready state an operation on operands of their kinds that passes its time checks runs. -/
theorem exec_host_ready {i : Instr} {s : State} (hp : i.port = .host) (hn : i ≠ .opInitialize) (hw : i.wf = true) (ht : timesPass i s)
    (h : s.ready) : exec i s = .next ((hostFields i s).emit (hostEvents s.env.oe i s)) := by
  obtain ⟨hr, hq, hi⟩ := h
  have hgate : hostGate i s = s.env.oe := if_neg hn
  rw [exec_host_runs hp hr hq hw (by simp [hi, hn]) ht, hgate]

/-- A row other than 0 is row 1 (42_scheduler.md R164, R166). -/
theorem clampRow_eq (row : Nat) : clampRow row = if row = 0 then .row0 else .row1 := by
  have hzero : min row 1 = 0 ↔ row = 0 := by omega
  simp only [clampRow, Config.rows, Nat.reduceSub, hzero]

theorem checkText_nulText {t : Text} (h : Text.wf t = false) : checkText t = some .nulText := if_neg (by simpa [Text.wf] using h)

/-- Of two texts it does not matter which holds a 0x00 (42_scheduler.md R165). -/
theorem firstBad_text_text {t u : Text} (h : ¬ (Text.wf t = true ∧ Text.wf u = true)) :
    firstBad [checkText t, checkText u] = some .nulText := by
  cases ht : Text.wf t with
  | false => rw [checkText_nulText ht, firstBad_some]
  | true =>
    have hu : Text.wf u = false := by simpa [ht] using h
    rw [checkText_none.mpr ht, checkText_nulText hu, firstBad_none, firstBad_some]

/-- Of two operands that are numbers it does not matter which is outside its kind. -/
theorem firstBad_below_below {a b m n : Nat} (h : a ≤ m ∨ b ≤ n) :
    firstBad [checkBelow a m, checkBelow b n] = some .argRange := by
  obtain hm | hm := Nat.lt_or_ge m a
  · rw [checkBelow_none.mpr hm, firstBad_none, firstBad_below (h.resolve_left hm.not_ge)]
  · rw [checkBelow_argRange hm, firstBad_some]

/-! ### SET_BACKGROUND and SET_BACKGROUND_ROWS -/

theorem setBackgroundBody_of_overlay {s : State} (h : s.ov.active = true) (r : RowIx) (text : Text) :
    setBackgroundBody r text s = s.setRow r ((s.row r).setText text) := by
  rw [setBackgroundBody_eq, if_pos h, emit_nil]

theorem setBackgroundBody_of_idle {s : State} (h : s.ov.active = false) (r : RowIx) (text : Text) :
    setBackgroundBody r text s = (s.setRow r ((s.row r).setText text)).render s.env.oe r := by
  simp [setBackgroundBody, h]

/-- Outside the bus side only the row is new. -/
theorem setBackgroundBody_frame (r : RowIx) (text : Text) (s : State) :
    ∃ bus, setBackgroundBody r text s = { s.setRow r ((s.row r).setText text) with bus := bus } :=
  ⟨_, setBackgroundBody_eq r text s⟩

theorem exec_setBackground {s : State} {row : Nat} {text : Text} (h : s.ready) (hrow : row < 256) (ht : Text.wf text = true) :
    exec (.setBackground row text) s = .next (setBackgroundBody (clampRow row) text s) := by
  rw [exec, execSetBackground, checkU8_none.mpr hrow, checkText_none.mpr ht, firstBad_none, firstBad_none, firstBad_nil,
    initialized_ready h]

theorem exec_setBackgroundRows {s : State} {upper lower : Text} (h : s.ready) (hu : Text.wf upper = true) (hl : Text.wf lower = true) :
    exec (.setBackgroundRows upper lower) s = .next (setBackgroundBody .row1 lower (setBackgroundBody .row0 upper s)) := by
  rw [exec, execSetBackgroundRows, checkText_none.mpr hu, checkText_none.mpr hl, firstBad_none, firstBad_none, firstBad_nil,
    initialized_ready h]

/-- Settles O34: `setText` keeps the mode and the deadline, and the render reads the row as it is then. -/
theorem setBackgroundWritesItsRow : Obligations.SetBackgroundWritesItsRow := by
  rintro s row text r rfl
  rw [← clampRow_eq]
  refine ⟨fun h hrow ht => ?_, fun hrow ht => refusesUninit rfl nofun rfl (by simp [Instr.wf, hrow, ht]),
    fun h hrow => exec_operandRefusal rfl nofun h ?_, fun h hrow ht => exec_operandRefusal rfl nofun h ?_⟩
  · refine ⟨_, _, exec_setBackground h hrow ht, rfl, fun ha => setBackgroundBody_of_overlay ha _ _, fun ha => ?_⟩
    rw [setBackgroundBody_of_idle ha]
    exact emit_emits _ _
  · rw [operandRefusal, checkU8, checkBelow_argRange hrow, firstBad_some]
  · rw [operandRefusal, checkU8_none.mpr hrow, checkText_nulText ht, firstBad_none, firstBad_some]

/-- Settles O35: the first background leaves a ready state, and neither of the two touches the other's row. -/
theorem setBackgroundRowsIsBothRows : Obligations.SetBackgroundRowsIsBothRows := by
  intro s upper lower
  refine ⟨fun h hu hl => ?_, fun hu hl => refusesUninit rfl nofun rfl (by simp [Instr.wf, hu, hl]),
    fun h hbad => exec_operandRefusal rfl nofun h (firstBad_text_text hbad)⟩
  obtain ⟨bus, hfirst⟩ := setBackgroundBody_frame .row0 upper s
  obtain ⟨bus', hsecond⟩ := setBackgroundBody_frame .row1 lower (setBackgroundBody .row0 upper s)
  have hready : (setBackgroundBody .row0 upper s).ready := by rw [hfirst]; exact h
  have hupper : exec (.setBackground 0 upper) s = .next (setBackgroundBody .row0 upper s) := exec_setBackground h (by decide) hu
  have hlower : exec (.setBackground 1 lower) (setBackgroundBody .row0 upper s) =
      .next (setBackgroundBody .row1 lower (setBackgroundBody .row0 upper s)) := exec_setBackground hready (by decide) hl
  refine ⟨_, _, hupper, hlower, exec_setBackgroundRows h hu hl, ?_⟩
  rw [hsecond, hfirst]
  exact ⟨rfl, rfl, rfl⟩

/-! ### SET_ANIMATION_MODE -/

theorem modeOf_eq {mode : Nat} (h : mode < 3) : modeOf mode = [Mode.none, .bounce, .loop][mode]?.getD .none := by
  interval_cases mode <;> rfl

/-- Settles O36: the operation emits nothing, and of its row it writes the mode. -/
theorem setAnimationModeWritesTheMode : Obligations.SetAnimationModeWritesTheMode := by
  intro s row mode
  have hw : row < 256 → mode < 3 → (Instr.setAnimationMode row mode).wf = true := fun hrow hmode => by simp [Instr.wf, hrow, hmode]
  refine ⟨fun h hrow hmode => ?_, fun hrow hmode => refusesUninit rfl nofun rfl (hw hrow hmode),
    fun h hbad => exec_operandRefusal rfl nofun h (firstBad_below_below hbad)⟩
  rw [exec_host_ready (i := .setAnimationMode row mode) rfl nofun (hw hrow hmode) trivial h, hostEvents, emit_nil, hostFields,
    clampRow_eq, modeOf_eq hmode]
  split <;> rfl

/-! ### PRINT -/

/-- PRINT answers what another operation answers that is refused for the same reasons, and else leaves the same fields and emits the same events. -/
theorem exec_print_as {j : Instr} {s : State} {text : Text} {ms : Nat} (hp : j.port = .host) (hn : j ≠ .opInitialize)
    (hr : s.refused = false) (hrefusal : hostRefusal (.print text ms) s = hostRefusal j s)
    (hfields : hostFields (.print text ms) s = hostFields j s)
    (hevents : hostEvents s.env.oe (.print text ms) s = hostEvents s.env.oe j s) (hkeeps : (hostFields j s).refusal = none) :
    ∃ t u, exec (.print text ms) s = .next t ∧ exec j s = .next u
      ∧ t = { u with refusal := u.refusal.map fun r => { r with op := some 0x11 } } := by
  cases hc : hostRefusal j s with
  | some c => exact ⟨_, _, exec_host_refuses rfl nofun hr (hrefusal.trans hc), exec_host_refuses hp hn hr hc, rfl⟩
  | none =>
    refine ⟨_, _, exec_host_passes rfl nofun hr (hrefusal.trans hc), exec_host_passes hp hn hr hc, ?_⟩
    rw [hfields, hevents, State.emit_refusal, hkeeps, Option.map_none, ← hkeeps]
    rfl

/-- With timeout 0 the operands in question are the text alone, as for SET_BACKGROUND of row 0. -/
theorem hostRefusal_print_zero (text : Text) (s : State) : hostRefusal (.print text 0) s = hostRefusal (.setBackground 0 text) s := by
  have hoperands : operandRefusal (.print text 0) = operandRefusal (.setBackground 0 text) := by
    simp only [operandRefusal]
    cases checkText text <;> rfl
  rw [hostRefusal, hostRefusal, hoperands]
  rfl

/-- The empty second row is a text without 0x00. -/
theorem hostRefusal_print_timed (text : Text) {ms : Nat} (hms : ms ≠ 0) (s : State) :
    hostRefusal (.print text ms) s = hostRefusal (.showOverlay text [] ms) s := by
  have hoperands : operandRefusal (.print text ms) = operandRefusal (.showOverlay text [] ms) := by
    simp only [operandRefusal]
    cases checkText text <;> rfl
  have htime : timeRefusal (.print text ms) s = timeRefusal (.showOverlay text [] ms) s := if_neg hms
  rw [hostRefusal, hostRefusal, hoperands, htime]

/-- Settles O38: each branch has the refusals, the fields and the events of the operation it stands for. -/
theorem printIsBackgroundOrOverlay : Obligations.PrintIsBackgroundOrOverlay := by
  intro s text ms hr hnone
  refine ⟨?_, fun hms => ?_, fun h ht hrange htime => ?_⟩
  · rintro rfl
    exact exec_print_as rfl nofun hr (hostRefusal_print_zero text s) rfl rfl hnone
  · exact exec_print_as rfl nofun hr (hostRefusal_print_timed text hms s) (if_neg hms) (if_neg hms) hnone
  · obtain ⟨-, -, -, hrefused⟩ := hostFields_keeps (.print text ms) s
    refine ⟨_, exec_host_ready rfl nofun (by simpa [Instr.wf, ht] using hrange) htime h, hrefused.trans hr, ?_, fun hms => ?_⟩
    · rintro rfl
      exact ⟨rfl, rfl⟩
    · simp [hostFields, hms]

/-! ### TICK -/

theorem exec_tick {s : State} {now : Nat} (h : s.ready) (hrange : now + 450 < 2 ^ 32) (hback : s.clkLast ≤ now) :
    exec (.tick now) s = .next ((hostFields (.tick now) s).emit (hostEvents s.env.oe (.tick now) s)) :=
  exec_host_ready rfl nofun (decide_eq_true (by omega)) ⟨hback, hrange⟩ h

/-- Settles O41: at the expiry the renders read the rows as they are, and before it there is no event. -/
theorem tickExpiresTheOverlay : Obligations.TickExpiresTheOverlay := by
  intro s now h hrange hback hactive
  rw [exec_tick h hrange hback]
  refine ⟨fun hdue => ⟨_, rfl, ?_⟩, fun hearly => ?_⟩
  · rw [hostFields, hostEvents, if_pos hactive, if_pos hactive, if_pos hdue, if_pos hdue, renderEvents_eq, renderEvents_eq]
    exact emit_emits _ _
  · rw [hostFields, hostEvents, if_pos hactive, if_pos hactive, if_neg hearly.not_ge, if_neg hearly.not_ge, emit_nil]
    rfl

theorem eligible_iff (rb : RowBuffer) (now : Nat) :
    rb.eligible now = true ↔ rb.mode ≠ .none ∧ 16 < rb.content.length ∧ rb.deadline ≤ now := by
  simp [RowBuffer.eligible, and_assoc]

/-- A render does not look at the deadline. -/
theorem rowEvents_deadline (g : Bool) (base : Byte) (rb : RowBuffer) (d : Nat) :
    rowEvents g base { rb with deadline := d } = rowEvents g base rb := rfl

/-- Settles O42: a row's tick is its step with the new deadline where it is due, and the render does not look at the deadline. -/
theorem tickStepsTheEligibleRows : Obligations.TickStepsTheEligibleRows := by
  intro s now due after h hrange hback hidle hdue hafter
  have heligible (r : RowIx) : (s.row r).eligible now = due r := by
    rw [Bool.eq_iff_iff, eligible_iff, hdue]
  have htick (r : RowIx) : (s.row r).tick now = after r := by
    rw [hafter, RowBuffer.tick, heligible]
  have hnot : ¬ s.ov.active = true := by simp [hidle]
  have hfields : hostFields (.tick now) s = { s with clkLast := now, row0 := after .row0, row1 := after .row1 } := by
    rw [hostFields, if_neg hnot, ← htick, ← htick]
    rfl
  have hrow (r : RowIx) : (hostFields (.tick now) s).row r = after r := by
    rw [hfields]
    cases r <;> rfl
  have hoffsets : (hostFields (.tick now) s).rowOffsets = s.rowOffsets := by rw [hfields]
  have hrender (r : RowIx) : (if due r then (hostFields (.tick now) s).renderEvents s.env.oe r else []) =
      if (s.row r).eligible now then rowEvents s.env.oe (s.rowOffsets.at (rowNumber r)) (s.row r).step else [] := by
    rw [heligible]
    split
    next hr => rw [renderEvents_eq, hoffsets, hrow, hafter, if_pos hr, rowEvents_deadline]
    next => rfl
  refine ⟨_, _, exec_tick h hrange hback, rfl, ?_⟩
  rw [← hfields, hrender, hrender, hostEvents, if_neg hnot]
  exact emit_emits _ _

/-! ### STEP_ROW -/

theorem exec_stepRow {s : State} {op k : Nat} {g : Bool} (r : RowIx) (h : s.inside op k g) :
    exec (.stepRow r) s = .next (s.setRow r (s.row r).step) := by
  have hevents : seqEvents g (.stepRow r) s = [] := rfl
  rw [exec_seq_inside rfl h, hevents, emit_nil, List.length_nil, Nat.add_zero, ← h.2]
  cases r <;> rfl

theorem step_of_bounce {rb : RowBuffer} (hmode : rb.mode = .bounce) (hlong : 16 < rb.content.length) : rb.step = rb.bounceStep := by
  rw [RowBuffer.step, if_pos hlong, hmode]

theorem bounceOffset_of_fwd {rb : RowBuffer} (h : rb.bounceDir = .fwd) : rb.bounceOffset = rb.offset + 1 := by
  rw [RowBuffer.bounceOffset, h]

theorem bounceOffset_of_bwd {rb : RowBuffer} (h : rb.bounceDir = .bwd) : rb.bounceOffset = rb.offset - 1 := by
  rw [RowBuffer.bounceOffset, h]

theorem bounceDir_of_up {rb : RowBuffer} (h : rb.offset < rb.bounceOffset) : rb.bounceDir = .fwd := by
  cases hd : rb.bounceDir with
  | fwd => rfl
  | bwd => rw [bounceOffset_of_bwd hd] at h; omega

theorem bounceDir_of_down {rb : RowBuffer} (h : rb.bounceOffset < rb.offset) : rb.bounceDir = .bwd := by
  cases hd : rb.bounceDir with
  | fwd => rw [bounceOffset_of_fwd hd] at h; omega
  | bwd => rfl

/-- Short of the far end only the near end turns the row after the step. -/
theorem bounceStep_dir_of_lt {rb : RowBuffer} (h : rb.bounceOffset < rb.maxOffset) :
    rb.bounceStep.dir = if rb.bounceOffset = 0 then .fwd else rb.bounceDir := if_neg h.ne

theorem bounceDir_at_start {rb : RowBuffer} (hstart : rb.offset = 0) (hlong : 0 < rb.maxOffset) : rb.bounceDir = .fwd := by
  cases hd : rb.dir <;> simp [RowBuffer.bounceDir, hd, hstart, hlong.ne']

theorem bounceDir_at_end {rb : RowBuffer} (hend : rb.offset = rb.maxOffset) (hlong : 0 < rb.maxOffset) : rb.bounceDir = .bwd := by
  cases hd : rb.dir <;> simp [RowBuffer.bounceDir, hd, hend, hlong.ne']

/-- Between the ends neither guard of 42_scheduler.md R173 turns the row. -/
theorem bounceDir_between {rb : RowBuffer} (hlo : 0 < rb.offset) (hhi : rb.offset < rb.maxOffset) : rb.bounceDir = rb.dir := by
  simp [RowBuffer.bounceDir, hlo.ne', hhi.not_ge]

/-- Settles O44: the guards turn a row that starts at an end, so that every step moves by one, and a row that reaches an end turns after it. -/
theorem stepRowBounces : Obligations.StepRowBounces := by
  intro s op k g r m h hmode hlong hm hoff
  rw [exec_stepRow r h]
  generalize s.row r = rb at *
  obtain rfl : m = rb.maxOffset := hm
  have hmax : 0 < rb.maxOffset := Nat.sub_pos_of_lt hlong
  rw [step_of_bounce hmode hlong]
  refine ⟨rb.bounceOffset, rb.bounceStep.dir, rfl, fun hend => ?_, fun hstart => ?_, fun hlo hhi hdir => ?_, fun hlo hhi hdir => ?_,
    fun htop => if_pos htop, fun hbottom => ?_, fun hlo hhi hup => ?_, fun hlo hhi hdown => ?_⟩
  · rw [bounceOffset_of_bwd (bounceDir_at_end hend hmax), hend]
  · rw [bounceOffset_of_fwd (bounceDir_at_start hstart hmax), hstart]
  · exact bounceOffset_of_fwd ((bounceDir_between hlo hhi).trans hdir)
  · exact bounceOffset_of_bwd ((bounceDir_between hlo hhi).trans hdir)
  · rw [bounceStep_dir_of_lt (by omega), if_pos hbottom]
  · rw [bounceStep_dir_of_lt hhi, if_neg hlo.ne', bounceDir_of_up hup]
  · rw [bounceStep_dir_of_lt hhi, if_neg hlo.ne', bounceDir_of_down hdown]

end Sys2Proof.Machine
end

section
/-! PROOFS. Refusals (spec 60_exceptions.md R240 to R250). The order of R250 is that of `hostRefusal` for every operation but INITIALIZE, and of
`fetchHost` for a record; a refusal is a mark, and a run with a mark goes on for no call. -/

namespace Sys2Proof.Machine

/-! ### After a refusal (R240) -/

theorem exec_host_refused {i : Instr} {s : State} (hp : i.port = .host) (h : s.refused = true) : exec i s = .fault .runEnded := by
  cases i <;> simp [Instr.port] at hp
  all_goals exact if_pos h

theorem fetch_record {s : State} {p : Port} {env : Env} {bytes : List Byte} {rest : List Input}
    (h : s.inbox = .record p env bytes :: rest) : fetch s = fetchRecord p bytes (s.taken env rest) := by
  rw [fetch, h, State.taken]

theorem step_of_fetch_ends {s : State} {r : Result} (h : fetch s = .ends r) : step s = r := by
  rw [step, h]

theorem step_record_refused {s : State} {p : Port} {env : Env} {bytes : List Byte} {rest : List Input} (hr : s.refused = true)
    (h : s.inbox = .record p env bytes :: rest) : step s = .fault .runEnded :=
  step_of_fetch_ends ((fetch_record h).trans (if_pos hr))

/-- Settles O48: of what an instruction that goes on can leave, only a mark is a refusal that was not there before. -/
theorem aRefusalWritesOnlyTheMark : Obligations.ARefusalWritesOnlyTheMark := by
  refine ⟨fun i s t h hr ht => ?_, fun i s hp hr => hp.elim (exec_host_refused · hr) (exec_seq_refused · hr),
    fun s p env bytes rest => step_record_refused⟩
  obtain ⟨-, -, evs, rfl⟩ | ⟨c, op, rfl⟩ | ⟨-, r0, r1, bus, q, rfl⟩ := exec_next_cases h
  · obtain ⟨-, -, -, hkeeps⟩ := hostFields_keeps i s
    rw [State.emit_refused, hkeeps, hr] at ht
    cases ht
  · exact ⟨⟨c, op⟩, rfl⟩
  · exact absurd (hr.symm.trans ht) Bool.false_ne_true

/-! ### Before INITIALIZE and after it (R242) -/

theorem exists_recordOp_encode (i : Instr) : ∃ op, recordOp (encode i) = some op := by
  cases i <;> exact ⟨_, rfl⟩

theorem exec_host_uninit {i : Instr} {s : State} (hp : i.port = .host) (hn : i ≠ .opInitialize) (hw : i.wf = true) (h : s.callable)
    (hi : s.init = false) : exec i s = .next (s.mark .uninit (recordOp (encode i))) := by
  obtain ⟨op, hop⟩ := exists_recordOp_encode i
  rw [hop]
  exact refusesUninit hp hn hop hw h hi

/-- Settles O3: what INITIALIZE writes leaves `init` set and no mark. -/
theorem onlyInitializeRunsFirstAndOnce : Obligations.OnlyInitializeRunsFirstAndOnce := by
  intro s h
  refine ⟨fun i hi hp hw hn => exec_host_uninit hp hn hw h hi, fun hi => ?_, exec_opInitialize_reinit h⟩
  obtain ⟨t, ht, hemits⟩ := exec_opInitialize_emits h hi
  refine ⟨t, ht, ?_⟩
  rw [hemits.frame]
  exact ⟨rfl, h.1⟩

/-! ### The time checks (R243) -/

/-- In a ready state and on operands of their kinds the time checks alone refuse. -/
theorem exec_timeRefusal {i : Instr} {s : State} {c : RefCode} (hp : i.port = .host) (hn : i ≠ .opInitialize) (hw : i.wf = true)
    (h : s.ready) (hc : timeRefusal i s = some c) : exec i s = .next (s.mark c (recordOp (encode i))) := by
  obtain ⟨hr, hq, hi⟩ := h
  have hoperands : operandRefusal i = none := (operandRefusal_none hp).mpr hw
  exact exec_host_refuses hp hn hr (by simp [hostRefusal, hq, hoperands, hi, hc])

theorem exec_tick_backward {s : State} {now : Nat} (h : s.ready) (hw : now < 2 ^ 32) (hback : now < s.clkLast) :
    exec (.tick now) s = .next (s.mark .timeBackward (some 0x15)) :=
  exec_timeRefusal (i := .tick now) rfl nofun (decide_eq_true hw) h (if_pos hback)

/-- Settles O50: each call passes every check before its time check, and TICK's range is looked at only when it does not go back. -/
theorem timeRefusals : Obligations.TimeRefusals := by
  intro s h
  refine ⟨fun now => exec_tick_backward h, fun now hw hforward hrange => ?_, fun t0 t1 dur h0 h1 hw hrange => ?_,
    fun text ms ht hw hms hrange => ?_⟩
  · exact exec_timeRefusal (i := .tick now) rfl nofun (decide_eq_true hw) h ((if_neg hforward.not_gt).trans (if_pos hrange))
  · exact exec_timeRefusal (i := .showOverlay t0 t1 dur) rfl nofun (by simpa [Instr.wf, h0, h1] using hw) h (if_pos hrange)
  · exact exec_timeRefusal (i := .print text ms) rfl nofun (by simpa [Instr.wf, ht] using hw) h ((if_neg hms).trans (if_pos hrange))

/-! ### Inside an operation (R245) -/

theorem hostCall_reentrant {op : Nat} {bad : Option RefCode} {body : State → Result} {s : State} (hr : s.refused = false)
    (hq : s.seq ≠ .idle) : hostCall op bad body s = .next (s.mark .reentrant (some op)) := by
  simp [hostCall, hr, hq, refuse]

/-- INITIALIZE is no exception: the position of the sequencer is looked at first. -/
theorem exec_host_reentrant {i : Instr} {s : State} (hp : i.port = .host) (hr : s.refused = false) (hq : s.seq ≠ .idle) :
    exec i s = .next (s.mark .reentrant (recordOp (encode i))) := by
  obtain rfl | hn := eq_or_ne i .opInitialize
  · rw [exec, execInitialize]
    exact hostCall_reentrant hr hq
  · exact exec_host_refuses hp hn hr (by simp [hostRefusal, hq])

/-! ### A host record that ends without an instruction (R244, R245) -/

theorem fetch_hostRecord {s : State} {env : Env} {bytes : List Byte} {rest : List Input} (hr : s.refused = false)
    (h : s.inbox = .record .host env bytes :: rest) : fetch s = fetchHost bytes (s.taken env rest) := by
  have hrun : ¬ (s.taken env rest).refused = true := by simp [State.taken, hr]
  rw [fetch_record h, fetchRecord, if_neg hrun]

theorem step_hostRecord_reentrant {s : State} {env : Env} {bytes : List Byte} {rest : List Input} (hr : s.refused = false)
    (hq : s.seq ≠ .idle) (h : s.inbox = .record .host env bytes :: rest) :
    step s = .next ((s.taken env rest).mark .reentrant (recordOp bytes)) :=
  step_of_fetch_ends ((fetch_hostRecord hr h).trans (if_pos hq))

theorem step_hostRecord_undecoded {s : State} {env : Env} {bytes : List Byte} {rest : List Input} {e : DecodeError}
    (h : s.callable) (hin : s.inbox = .record .host env bytes :: rest) (hd : decode .host bytes = .error e) :
    step s = .next ((s.taken env rest).mark (recordCode e) (recordOp bytes)) := by
  have hidle : ¬ (s.taken env rest).seq ≠ .idle := not_not_intro h.2
  apply step_of_fetch_ends
  rw [fetch_hostRecord h.1 hin, fetchHost, if_neg hidle, hd]

/-- The op codes of five bits that are assigned to nothing or to an internal primitive (30_encoding.md R86, R88). -/
def badOps : List Nat := [0x0D, 0x0E, 0x0F, 0x16, 0x17, 0x18, 0x19, 0x1A, 0x1B, 0x1C, 0x1D, 0x1E, 0x1F]

/-- Such a record is rejected at its first byte, whatever bytes follow. -/
theorem decode_host_badOp {op : Byte} (bytes : List Byte) (h : op.toNat ∈ badOps) :
    ∃ e, decode .host (op :: bytes) = .error e ∧ recordCode e = .badOp := by
  rw [decode, decodeHost]
  unfold badOps at h
  generalize op.toNat = n at h
  fin_cases h <;> exact ⟨_, rfl, rfl⟩

theorem step_hostRecord_badOp {s : State} {env : Env} {op : Byte} {bytes : List Byte} {rest : List Input} (h : s.callable)
    (hin : s.inbox = .record .host env (op :: bytes) :: rest) (hop : op.toNat ∈ badOps) :
    step s = .next ((s.taken env rest).mark .badOp (some op.toNat)) := by
  obtain ⟨e, hd, hcode⟩ := decode_host_badOp bytes hop
  rw [step_hostRecord_undecoded h hin hd, hcode, recordOp]

/-! ### The operands, from left to right (R250) -/

/-- A check of operands refuses with no other code than that of an operand outside its kind (60_exceptions.md R244). -/
def OperandCode (x : Option RefCode) : Prop := ∀ c, x = some c → c ∈ [RefCode.argRange, .bitmapLen, .nulText]

theorem operandCode_none : OperandCode none := nofun

theorem operandCode_some {c : RefCode} (h : c ∈ [RefCode.argRange, .bitmapLen, .nulText]) : OperandCode (some c) := by
  rintro _ ⟨⟩
  exact h

theorem operandCode_ite {p : Prop} [Decidable p] {x y : Option RefCode} (hx : OperandCode x) (hy : OperandCode y) :
    OperandCode (if p then x else y) := by
  split
  · exact hx
  · exact hy

theorem operandCode_checkBelow (bound n : Nat) : OperandCode (checkBelow bound n) :=
  operandCode_ite operandCode_none (operandCode_some (by decide))

theorem operandCode_checkText (t : Text) : OperandCode (checkText t) :=
  operandCode_ite operandCode_none (operandCode_some (by decide))

theorem operandCode_checkBitmap (m : List Nat) : OperandCode (checkBitmap m) :=
  operandCode_ite (operandCode_ite operandCode_none (operandCode_some (by decide))) (operandCode_some (by decide))

theorem operandCode_firstBad {cs : List (Option RefCode)} (h : ∀ x ∈ cs, OperandCode x) : OperandCode (firstBad cs) := by
  induction cs with
  | nil => exact operandCode_none
  | cons x xs ih =>
    obtain ⟨hx, hxs⟩ := List.forall_mem_cons.mp h
    cases x with
    | none => exact ih hxs
    | some c => exact hx

/-- Every call's operands are checked by `firstBad` of those checks. -/
theorem operandCode_operandRefusal (i : Instr) : OperandCode (operandRefusal i) := by
  cases i <;>
    simp [operandRefusal, operandCode_firstBad, operandCode_none, operandCode_checkText, operandCode_checkBitmap, checkU8, checkBool,
      checkDir, checkMode, checkU32, operandCode_checkBelow]

/-- A wrong operand is reported whatever is to its right. -/
theorem firstBad_append_of_some {xs : List (Option RefCode)} {c : RefCode} (h : firstBad xs = some c) (ys : List (Option RefCode)) :
    firstBad (xs ++ ys) = some c := by
  induction xs with
  | nil => cases h
  | cons x xs ih =>
    cases x with
    | none => exact ih h
    | some d => exact h

/-- Between operations a call on an operand outside its kind is refused with the code of such an operand, initialized or not. -/
theorem exec_host_illFormed {i : Instr} {s : State} (hp : i.port = .host) (hw : i.wf = false) (h : s.callable) :
    ∃ c ∈ [RefCode.argRange, .bitmapLen, .nulText], exec i s = .next (s.mark c (recordOp (encode i))) := by
  have hn : i ≠ .opInitialize := by
    rintro rfl
    cases hw
  cases hc : operandRefusal i with
  | none => simp [(operandRefusal_none hp).mp hc] at hw
  | some c => exact ⟨c, operandCode_operandRefusal i c hc, exec_operandRefusal hp hn h hc⟩

/-- Settles O51: the sequencer comes first, then the op code, then the operands from left to right, and then whether INITIALIZE has completed and
the time checks. -/
theorem refusalPriority : Obligations.RefusalPriority := by
  intro i s hp hr
  refine ⟨exec_host_reentrant hp hr, fun env bytes rest => step_hostRecord_reentrant hr,
    fun env op bytes rest hq => step_hostRecord_badOp ⟨hr, hq⟩, fun hq hw => exec_host_illFormed hp hw ⟨hr, hq⟩,
    fun r text hq hrow _ => ?_, fun t0 t1 dur hq htexts _ => ?_, fun text ms hq htext _ => ?_, fun slot bitmap hq hslot _ => ?_,
    fun hq hw hi hn => exec_host_uninit hp hn hw ⟨hr, hq⟩ hi, fun hq _ hi => ?_, fun h hw now => ?_⟩
  · exact exec_operandRefusal rfl nofun ⟨hr, hq⟩ (firstBad_append_of_some (firstBad_below hrow) [checkText text])
  · exact exec_operandRefusal rfl nofun ⟨hr, hq⟩ (firstBad_append_of_some (firstBad_text_text htexts) [checkU32 dur])
  · exact exec_operandRefusal rfl nofun ⟨hr, hq⟩ (congrArg (firstBad [·, checkU32 ms]) (checkText_nulText htext))
  · exact exec_operandRefusal rfl nofun ⟨hr, hq⟩ (firstBad_append_of_some (firstBad_below hslot) [checkBitmap bitmap])
  · rintro rfl
    exact exec_opInitialize_reinit ⟨hr, hq⟩ hi
  · rintro rfl hback
    exact exec_tick_backward h (of_decide_eq_true hw) hback

end Sys2Proof.Machine
end

section
/-! PROOFS. Reset (spec 70_reset_and_hazards.md R270, R272). A firmware reset is `State.reset` but for the fields the spec leaves at any value, the
controller and the inputs, so the values R270 gives are those of `State.reset` after either. -/

namespace Sys2Proof.Machine

theorem step_firmwareReset {s : State} {rest : List Input} (h : s.inbox = .firmwareReset :: rest) :
    step s = .next ({ s with inbox := rest } : State).firmwareReset :=
  step_of_fetch_ends (by rw [fetch, h])

@[simp] theorem firmwareReset_panel (s : State) : s.firmwareReset.bus.panel = s.bus.panel := rfl

@[simp] theorem firmwareReset_inbox (s : State) : s.firmwareReset.inbox = s.inbox := rfl

/-- The block is right after power-on or right after a firmware reset. -/
inductive JustReset : State → Prop
  | powerOn : JustReset State.reset
  | firmware (s : State) : JustReset s.firmwareReset

/-- A step that takes a firmware reset ends in one. -/
theorem justReset_of_step {s t : State} {rest : List Input} (hi : s.inbox = .firmwareReset :: rest) (h : step s = .next t) : JustReset t := by
  rw [step_firmwareReset hi] at h
  cases h
  exact .firmware _

theorem JustReset.flags {t : State} (h : JustReset t) :
    t.init = false ∧ t.ctl = ⟨true, false, false⟩ ∧ t.ent = ⟨true, false⟩ ∧ t.fn = ⟨false, true, false⟩ := by
  cases h <;> exact ⟨rfl, rfl, rfl, rfl⟩

theorem JustReset.scheduler {t : State} (h : JustReset t) :
    t.row0 = RowBuffer.reset ∧ t.row1 = RowBuffer.reset ∧ t.ov = ⟨false, 0⟩ ∧ t.clkLast = 0 := by
  cases h <;> exact ⟨rfl, rfl, rfl, rfl⟩

theorem JustReset.quiet {t : State} (h : JustReset t) : t.bus.trace = [] ∧ t.refused = false ∧ t.refusal = none ∧ t.seq = .idle := by
  cases h <;> exact ⟨rfl, rfl, rfl, rfl⟩

/-- Settles O1: the fields by `JustReset`, and the controller and the inputs by what a firmware reset keeps. -/
theorem resetGivesTheFieldsTheirResetValues : Obligations.ResetGivesTheFieldsTheirResetValues := by
  refine ⟨fun t ht => ?_, fun s rest hi => ⟨_, step_firmwareReset hi, firmwareReset_panel _, firmwareReset_inbox _⟩⟩
  have hreset : JustReset t := by
    obtain rfl | ⟨s, rest, hi, hstep⟩ := ht
    · exact .powerOn
    · exact justReset_of_step hi hstep
  obtain ⟨hinit, hctl, hent, hfn⟩ := hreset.flags
  obtain ⟨hrow0, hrow1, hov, hclk⟩ := hreset.scheduler
  exact ⟨hinit, hctl, hent, hfn, hrow0, hrow1, hov, hclk, hreset.quiet⟩

end Sys2Proof.Machine
end

section
/-! PROOFS. The decoder and the encoder (spec 30_encoding.md R70 to R93). Each operand reader takes back the bytes its writer made and leaves the
bytes behind them; below the host's records the readers are exact inverses, so that a word has one meaning. -/

namespace Sys2Proof

/-! ### The operands of a host record -/

theorem takeNat_leBytes {k n : Nat} (h : n < 256 ^ k) (rest : List Byte) : takeNat k (leBytes k n ++ rest) = some (n, rest) := by
  induction k generalizing n with
  | zero =>
    obtain rfl : n = 0 := by simpa using h
    rfl
  | succ k ih =>
    have hquot : n / 256 < 256 ^ k := Nat.div_lt_of_lt_mul (by rwa [← Nat.pow_succ'])
    simp [leBytes, takeNat, ih hquot, Nat.mod_add_div]

theorem takeSmall_leBytes {n : Nat} (h : n < 65536) (rest : List Byte) : takeSmall (leBytes 2 n ++ rest) = some (n, rest) :=
  takeNat_leBytes h rest

theorem takeTime_leBytes {n : Nat} (h : n < 2 ^ 64) (rest : List Byte) : takeTime (leBytes 8 n ++ rest) = some (n, rest) :=
  takeNat_leBytes h rest

theorem takeText_textBytes (t : Text) (rest : List Byte) : takeText (textBytes t ++ rest) = some (t, rest) := by
  induction t with
  | nil => cases rest <;> rfl
  | cons b t ih => simp [textBytes, takeText, ih]

/-- The two bytes of a number of a bitmap, read together. -/
theorem toNat_leBytes_two {n : Nat} (h : n < 65536) : (BitVec.ofNat 8 n).toNat + 256 * (BitVec.ofNat 8 (n / 256)).toNat = n := by
  simp only [BitVec.toNat_ofNat]
  omega

theorem leBytes_two (n : Nat) : leBytes 2 n = [BitVec.ofNat 8 n, BitVec.ofNat 8 (n / 256)] := rfl

theorem takeNats_leBytes {m : List Nat} (h : ∀ n ∈ m, n < 65536) (rest : List Byte) :
    takeNats m.length (m.flatMap (leBytes 2) ++ rest) = some (m, rest) := by
  induction m with
  | nil => rfl
  | cons n m ih =>
    obtain ⟨hn, hm⟩ := List.forall_mem_cons.mp h
    rw [List.flatMap_cons, leBytes_two, List.length_cons]
    simp only [List.cons_append, List.nil_append, takeNats, ih hm, toNat_leBytes_two hn]

theorem takeNatList_leBytes {m : List Nat} (h : ∀ n ∈ m, n < 65536) (rest : List Byte) :
    takeNatList (m.flatMap (fun n => 0x01 :: leBytes 2 n) ++ 0x00 :: rest) = some (m, rest) := by
  induction m with
  | nil => rcases rest with _ | ⟨a, _ | ⟨b, rest⟩⟩ <;> rfl
  | cons n m ih =>
    obtain ⟨hn, hm⟩ := List.forall_mem_cons.mp h
    rw [List.flatMap_cons, leBytes_two]
    simp only [List.cons_append, List.nil_append, takeNatList, if_true, ih hm, toNat_leBytes_two hn]

theorem takeBitmap_bitmapBytes {m : List Nat} (h : ∀ n ∈ m, n < 65536) (rest : List Byte) :
    takeBitmap (bitmapBytes m ++ rest) = some (m, rest) := by
  unfold bitmapBytes
  split
  next hlen => simpa [takeBitmap, hlen] using takeNats_leBytes h rest
  next => simpa [takeBitmap] using takeNatList_leBytes h rest

theorem with1_of_take {α : Type} (op : Nat) {p : List Byte → Option (α × List Byte)} {mk : α → Instr} {bs rest : List Byte} {a : α}
    (h : p bs = some (a, rest)) : with1 op p mk bs = .ok (mk a, rest) := by
  rw [with1, h]

theorem with2_of_take {α β : Type} (op : Nat) {p : List Byte → Option (α × List Byte)} {q : List Byte → Option (β × List Byte)}
    {mk : α → β → Instr} {bs mid rest : List Byte} {a : α} {b : β} (hp : p bs = some (a, mid)) (hq : q mid = some (b, rest)) :
    with2 op p q mk bs = .ok (mk a b, rest) := by
  rw [with2, hp]
  exact with1_of_take op hq

theorem with3_of_take {α β γ : Type} (op : Nat) {p : List Byte → Option (α × List Byte)} {q : List Byte → Option (β × List Byte)}
    {r : List Byte → Option (γ × List Byte)} {mk : α → β → γ → Instr} {bs mid mid' rest : List Byte} {a : α} {b : β} {c : γ}
    (hp : p bs = some (a, mid)) (hq : q mid = some (b, mid')) (hr : r mid' = some (c, rest)) :
    with3 op p q r mk bs = .ok (mk a b c, rest) := by
  rw [with3, hp]
  exact with2_of_take op hq hr

/-! ### The host's records -/

/-- The fields of a record are wider than the kinds of 30_encoding.md R87. -/
theorem fits_of_wf {i : Instr} (h : i.wf = true) : i.fits = true := by
  cases i
  case defineGlyph slot bitmap =>
    simp only [Instr.wf, Bitmap.wf, Bool.and_eq_true, decide_eq_true_eq, List.all_eq_true] at h
    obtain ⟨hslot, hbytes, -⟩ := h
    simp only [Instr.fits, Bool.and_eq_true, decide_eq_true_eq, List.all_eq_true]
    exact ⟨by omega, fun n hn => Nat.lt_trans (hbytes n hn) (by decide)⟩
  all_goals
    simp only [Instr.wf, Instr.fits, Bool.and_eq_true, decide_eq_true_eq] at h ⊢
  all_goals omega

theorem decodeHost_encode {i : Instr} (hp : i.port = .host) (h : i.fits = true) (rest : List Byte) :
    decodeHost (encode i ++ rest) = .ok (i, rest) := by
  cases i <;> simp [Instr.port] at hp
  case opInitialize | clear | home | displayOn | displayOff | blinkOn | blinkOff => rfl
  all_goals
    simp only [Instr.fits, Bool.and_eq_true, decide_eq_true_eq, List.all_eq_true] at h
    simp only [encode, List.cons_append, List.append_assoc]
  case setCursorVisible => exact with1_of_take 0x06 (takeSmall_leBytes h rest)
  case setScrollDirection => exact with1_of_take 0x09 (takeSmall_leBytes h rest)
  case setAutoscroll => exact with1_of_take 0x0A (takeSmall_leBytes h rest)
  case writeGlyph => exact with1_of_take 0x0B (takeSmall_leBytes h rest)
  case tick => exact with1_of_take 0x15 (takeTime_leBytes h rest)
  case setCursor =>
    obtain ⟨hcol, hrow⟩ := h
    exact with2_of_take 0x03 (takeSmall_leBytes hcol _) (takeSmall_leBytes hrow rest)
  case defineGlyph =>
    obtain ⟨hslot, hbitmap⟩ := h
    exact with2_of_take 0x0C (takeSmall_leBytes hslot _) (takeBitmap_bitmapBytes hbitmap rest)
  case showOverlay => exact with3_of_take 0x10 (takeText_textBytes _ _) (takeText_textBytes _ _) (takeTime_leBytes h rest)
  case print => exact with2_of_take 0x11 (takeText_textBytes _ _) (takeTime_leBytes h rest)
  case setBackground => exact with2_of_take 0x12 (takeSmall_leBytes h _) (takeText_textBytes _ rest)
  case setBackgroundRows => exact with2_of_take 0x13 (takeText_textBytes _ _) (takeText_textBytes _ rest)
  case setAnimationMode =>
    obtain ⟨hrow, hmode⟩ := h
    exact with2_of_take 0x14 (takeSmall_leBytes hrow _) (takeSmall_leBytes hmode rest)

theorem eq_mk_of_with1 {α : Type} {op : Nat} {p : List Byte → Option (α × List Byte)} {mk : α → Instr} {bs rest : List Byte} {i : Instr}
    (h : with1 op p mk bs = .ok (i, rest)) : ∃ a, i = mk a := by
  unfold with1 at h
  split at h <;> cases h
  exact ⟨_, rfl⟩

theorem eq_mk_of_with2 {α β : Type} {op : Nat} {p : List Byte → Option (α × List Byte)} {q : List Byte → Option (β × List Byte)}
    {mk : α → β → Instr} {bs rest : List Byte} {i : Instr} (h : with2 op p q mk bs = .ok (i, rest)) : ∃ a b, i = mk a b := by
  unfold with2 at h
  split at h
  · exact ⟨_, eq_mk_of_with1 h⟩
  · cases h

theorem eq_mk_of_with3 {α β γ : Type} {op : Nat} {p : List Byte → Option (α × List Byte)} {q : List Byte → Option (β × List Byte)}
    {r : List Byte → Option (γ × List Byte)} {mk : α → β → γ → Instr} {bs rest : List Byte} {i : Instr}
    (h : with3 op p q r mk bs = .ok (i, rest)) : ∃ a b c, i = mk a b c := by
  unfold with3 at h
  split at h
  · exact ⟨_, eq_mk_of_with2 h⟩
  · cases h

/-- A host record decodes to a host operation, by its op code (30_encoding.md R86). -/
theorem port_of_decodeHost {bytes rest : List Byte} {i : Instr} (h : decodeHost bytes = .ok (i, rest)) : i.port = .host := by
  unfold decodeHost at h
  split at h
  · cases h
  split at h
  case h_4 | h_13 | h_15 | h_16 | h_17 | h_18 =>
    obtain ⟨a, b, rfl⟩ := eq_mk_of_with2 h
    rfl
  case h_7 | h_10 | h_11 | h_12 | h_19 =>
    obtain ⟨a, rfl⟩ := eq_mk_of_with1 h
    rfl
  case h_14 =>
    obtain ⟨a, b, c, rfl⟩ := eq_mk_of_with3 h
    rfl
  all_goals cases h
  all_goals rfl

/-! ### The internal primitives -/

theorem asBit_eq_some_iff {b : Byte} {x : Bool} : asBit b = some x ↔ b = boolByte x := by
  unfold asBit
  split
  next h => subst h; cases x <;> decide
  next h0 =>
    split
    next h => subst h; cases x <;> decide
    next h1 => cases x <;> simpa [boolByte] using by assumption

theorem asNibble_eq_some_iff {b : Byte} {n : Nibble} : asNibble b = some n ↔ b = n.setWidth 8 := by
  revert b n
  decide

theorem asRow_eq_some_iff {b : Byte} {r : RowIx} : asRow b = some r ↔ b = rowByte r := by
  unfold asRow
  split
  next h => subst h; cases r <;> decide
  next h0 =>
    split
    next h => subst h; cases r <;> decide
    next h1 => cases r <;> simpa [rowByte] using by assumption

@[simp] theorem asBit_boolByte (x : Bool) : asBit (boolByte x) = some x := asBit_eq_some_iff.mpr rfl
@[simp] theorem asNibble_setWidth (n : Nibble) : asNibble (n.setWidth 8) = some n := asNibble_eq_some_iff.mpr rfl
@[simp] theorem asRow_rowByte (r : RowIx) : asRow (rowByte r) = some r := asRow_eq_some_iff.mpr rfl

theorem decodeSeq_encode {i : Instr} (hp : i.port = .seq) (rest : List Byte) : decodeSeq (encode i ++ rest) = .ok (i, rest) := by
  cases i <;> simp [Instr.port] at hp
  all_goals simp [encode, decodeSeq]

theorem encode_of_decodeSeq {bytes rest : List Byte} {i : Instr} (h : decodeSeq bytes = .ok (i, rest)) :
    i.port = .seq ∧ bytes = encode i ++ rest := by
  have hop {op : Byte} {n : Nat} (hn : op.toNat = n) : op = BitVec.ofNat 8 n := by rw [← hn, BitVec.ofNat_toNat, BitVec.setWidth_eq]
  unfold decodeSeq at h
  split at h
  · cases h
  split at h
  next heq =>
    obtain rfl := hop heq
    split at h
    next hrs he hn =>
      cases h
      rw [asBit_eq_some_iff.mp hrs, asBit_eq_some_iff.mp he, asNibble_eq_some_iff.mp hn]
      exact ⟨rfl, rfl⟩
    next => cases h
  next heq =>
    obtain rfl := hop heq
    split at h
    next hrs hn =>
      cases h
      rw [asBit_eq_some_iff.mp hrs, asNibble_eq_some_iff.mp hn]
      exact ⟨rfl, rfl⟩
    next => cases h
  next heq =>
    obtain rfl := hop heq
    split at h
    next hrs =>
      cases h
      rw [asBit_eq_some_iff.mp hrs]
      exact ⟨rfl, rfl⟩
    next => cases h
  case h_4 heq | h_5 heq =>
    obtain rfl := hop heq
    split at h
    next hr =>
      cases h
      rw [asRow_eq_some_iff.mp hr]
      exact ⟨rfl, rfl⟩
    next => cases h
  next => split at h <;> cases h

/-! ### The controller bytes -/

theorem decodeController_noCommand_iff (v : Byte) : decodeController false v = .error .noCommand ↔ v = 0x00 := by
  revert v
  decide

/-- The row a controller byte is read as is the one that encodes to it. -/
theorem encode_of_decodeController {rs : Bool} {v : Byte} {i : Instr} (h : decodeController rs v = .ok i) :
    i.port = .ctl ∧ encode i = [v, boolByte rs] := by
  unfold decodeController at h
  split at h
  next hrs => cases h; exact ⟨rfl, by rw [hrs]; rfl⟩
  next hrs =>
    obtain rfl : rs = false := by simpa using hrs
    repeat' split at h
    all_goals cases h
    all_goals refine ⟨rfl, congrArg (· :: [0x00#8]) ?_⟩
    all_goals
      ext k hk
      interval_cases k <;> simp_all [clearByte, homeByte, entByte, ctlByte, fnByte]

/-- An instruction of the table's second level is read back from its controller byte: its highest set bit is its row's (30_encoding.md R76). -/
theorem decodeController_encode {i : Instr} (hp : i.port = .ctl) :
    ∃ rs v, encode i = [v, boolByte rs] ∧ decodeController rs v = .ok i := by
  cases i <;> simp [Instr.port] at hp
  case dataWrite d => exact ⟨true, d, rfl, rfl⟩
  all_goals refine ⟨false, _, rfl, ?_⟩
  case cmdClearDisplay => rfl
  case cmdReturnHome x => revert x; decide
  case cmdEntryModeSet i sh => revert i sh; decide
  case cmdDisplayControl d c b => revert d c b; decide
  case cmdCursorDisplayShift sc rl x => revert sc rl x; decide
  case cmdFunctionSet dl n f x => revert dl n f x; decide
  case cmdSetCgramAddress a => revert a; decide
  case cmdSetDdramAddress a => revert a; decide

theorem decodeCtl_encode {i : Instr} (hp : i.port = .ctl) (rest : List Byte) : decodeCtl (encode i ++ rest) = .ok (i, rest) := by
  obtain ⟨rs, v, hencode, hdecode⟩ := decodeController_encode hp
  simp [hencode, decodeCtl, hdecode]

theorem encode_of_decodeCtl {bytes rest : List Byte} {i : Instr} (h : decodeCtl bytes = .ok (i, rest)) :
    i.port = .ctl ∧ bytes = encode i ++ rest := by
  unfold decodeCtl at h
  split at h
  · split at h
    next hrs =>
      split at h
      next hdecode =>
        cases h
        obtain ⟨hp, hencode⟩ := encode_of_decodeController hdecode
        rw [hencode, asBit_eq_some_iff.mp hrs]
        exact ⟨hp, rfl⟩
      next => cases h
    next => cases h
  · cases h

/-! ### Nibble writes and bus bytes -/

theorem decodeNib_encode {i : Instr} (hp : i.port = .nib) (rest : List Byte) : decodeNib (encode i ++ rest) = .ok (i, rest) := by
  cases i <;> simp [Instr.port] at hp
  all_goals rfl

theorem encode_of_decodeNib {bytes rest : List Byte} {i : Instr} (h : decodeNib bytes = .ok (i, rest)) :
    i.port = .nib ∧ bytes = encode i ++ rest := by
  unfold decodeNib at h
  split at h
  · cases h
  split at h
  next hb => cases h; exact ⟨rfl, by rw [hb]; rfl⟩
  split at h
  next hb => cases h; exact ⟨rfl, by rw [hb]; rfl⟩
  split at h <;> cases h

/-- A byte with bit 6 or bit 0 set has no row (30_encoding.md R73). -/
theorem decodeBus_stray {b : Byte} (h : b.getLsbD 6 = true ∨ b.getLsbD 0 = true) (rest : List Byte) :
    decodeBus (b :: rest) = .error (.notBusByte b) := if_pos (by simpa using h)

/-- Every other byte is read as `unpack` reads it (30_encoding.md R71, R93). -/
theorem decodeBus_of_unpack {b : Byte} {w : BusWord} (h : Machine.unpack b = some w) (rest : List Byte) :
    decodeBus (b :: rest) = .ok (.busByte w.rs w.e w.n, rest) := by
  unfold Machine.unpack at h
  split at h
  next => cases h
  next hclear => cases h; exact if_neg hclear

theorem decodeBus_encode {i : Instr} (hp : i.port = .bus) (rest : List Byte) : decodeBus (encode i ++ rest) = .ok (i, rest) := by
  cases i <;> simp [Instr.port] at hp
  rw [encode, List.singleton_append, decodeBus_of_unpack (Machine.unpack_pack _)]

theorem encode_of_decodeBus {bytes rest : List Byte} {i : Instr} (h : decodeBus bytes = .ok (i, rest)) :
    i.port = .bus ∧ bytes = encode i ++ rest := by
  cases bytes with
  | nil => cases h
  | cons b bs =>
    by_cases hb : b.getLsbD 6 = true ∨ b.getLsbD 0 = true
    · rw [decodeBus_stray hb] at h
      cases h
    · obtain ⟨w, hw⟩ := (Machine.exists_unpack_eq_some_iff b).mpr (by simpa using hb)
      rw [decodeBus_of_unpack hw] at h
      cases h
      exact ⟨rfl, by rw [encode, List.singleton_append, Machine.pack_of_unpack hw]⟩

/-! ### The obligations -/

/-- Settles O5: each word by evaluation. -/
theorem sampleWordsDecode : Obligations.SampleWordsDecode := by
  refine ⟨?_, ?_, ?_, ?_, ?_, ?_, ?_, ?_, ?_, ?_, ?_, ?_⟩ <;> rfl

/-- Settles O6: at each port the readers of the operands take back what the encoder wrote. -/
theorem decodeReadsWhatEncodeWrites : Obligations.DecodeReadsWhatEncodeWrites := by
  intro i rest h
  have hfits : i.fits = true := h.elim fits_of_wf id
  cases hp : i.port with
  | host => exact decodeHost_encode hp hfits rest
  | seq => exact decodeSeq_encode hp rest
  | ctl => exact decodeCtl_encode hp rest
  | nib => exact decodeNib_encode hp rest
  | bus => exact decodeBus_encode hp rest

/-- Settles O7: at each port below the host's the bytes read are those the encoder writes. -/
theorem lowerLevelWordsHaveOneMeaning : Obligations.LowerLevelWordsHaveOneMeaning := by
  intro p bytes rest i hp h
  cases p with
  | host => exact absurd rfl hp
  | seq => exact encode_of_decodeSeq h
  | ctl => exact encode_of_decodeCtl h
  | nib => exact encode_of_decodeNib h
  | bus => exact encode_of_decodeBus h

/-- The `match` of a command's row is the highest set bit of its byte, and the byte has the row's bits under its mask. -/
theorem command_highestBit {v : Byte} {i : Instr} (h : decodeController false v = .ok i) :
    v.toNat &&& (i.tableRow.2 % 256) = i.tableRow.1 ∧ i.tableRow.1 = 2 ^ v.toNat.log2 := by
  have hall : ∀ v : Byte, (decodeController false v).toOption.all
      (fun i => v.toNat &&& (i.tableRow.2 % 256) == i.tableRow.1 && i.tableRow.1 == 2 ^ v.toNat.log2) = true := by decide
  simpa [h, Except.toOption] using hall v

/-- Settles O10: the byte read is the byte of the row, whose `match` is its highest set bit. -/
theorem controllerBytesAreReadByTheirHighestBit : Obligations.ControllerBytesAreReadByTheirHighestBit := by
  refine ⟨fun v => rfl, decodeController_noCommand_iff, fun v i h => ?_⟩
  obtain ⟨hp, hencode⟩ := encode_of_decodeController h
  obtain ⟨hmask, hmatch⟩ := command_highestBit h
  have hv : v.toNat ≠ 0 := fun hv => by
    rw [BitVec.eq_of_toNat_eq (y := 0#8) hv] at h
    cases h
  have hword : i.tableWord = v.toNat := by simp [Instr.tableWord, hp, hencode, boolByte]
  exact ⟨hmask, hword, _, hmatch, Nat.log2_self_le hv, Nat.lt_log2_self⟩

end Sys2Proof
end

section
/-! PROOFS. Steps (spec 10_state.md R21, 60_exceptions.md R246): a step runs the instruction its record decodes to, and ends between operations. What
an instruction that goes on did is `Did`, once for all 36, and a step's invariants are read off it. -/

namespace Sys2Proof.Machine

/-! ### The instruction a step runs -/

theorem length_encode_ctl {i : Instr} (hp : i.port = .ctl) : (encode i).length = 2 := by
  obtain ⟨rs, v, hencode, -⟩ := decodeController_encode hp
  rw [hencode]
  rfl

theorem length_encode_nib {i : Instr} (hp : i.port = .nib) : (encode i).length = 1 := by
  cases i <;> simp [Instr.port] at hp
  all_goals rfl

theorem length_encode_bus {i : Instr} (hp : i.port = .bus) : (encode i).length = 1 := by
  cases i <;> simp [Instr.port] at hp
  rfl

/-- A record of one frame: nothing is put back. -/
theorem fetchLine_of_decode {n : Nat} {p : Port} {bytes : List Byte} {i : Instr} (s : State) (hn : bytes.length = n + 1)
    (hd : decode p bytes = .ok (i, [])) : fetchLine (n + 1) p bytes s = .run i s := by
  have hne : bytes.isEmpty = false := by
    cases bytes with
    | nil => cases hn
    | cons => rfl
  rw [fetchLine, hne, ← hn, List.take_length, List.drop_length, hd]
  rfl

theorem fetchRecord_of_decode {p : Port} {bytes : List Byte} {s : State} {i : Instr} (hr : s.refused = false)
    (hd : decode p bytes = .ok (i, [])) (hq : p = .host → s.seq = .idle) : fetchRecord p bytes s = .run i s := by
  have hrun : ¬ s.refused = true := by simp [hr]
  have hencode : p ≠ .host → i.port = p ∧ bytes = encode i := fun hp => by
    simpa using lowerLevelWordsHaveOneMeaning p bytes [] i hp hd
  rw [fetchRecord.eq_def, if_neg hrun]
  cases p with
  | host =>
    have hidle : ¬ s.seq ≠ .idle := not_not_intro (hq rfl)
    simp only [fetchHost, if_neg hidle, hd]
  | seq => simp only [fetchSeq, hd]
  | ctl =>
    obtain ⟨hp, rfl⟩ := hencode (by decide)
    exact fetchLine_of_decode s (length_encode_ctl hp) hd
  | nib =>
    obtain ⟨hp, rfl⟩ := hencode (by decide)
    exact fetchLine_of_decode s (length_encode_nib hp) hd
  | bus =>
    obtain ⟨hp, rfl⟩ := hencode (by decide)
    exact fetchLine_of_decode s (length_encode_bus hp) hd

theorem step_of_fetch_run {s u : State} {i : Instr} (h : fetch s = .run i u) : step s = exec i u := by
  rw [step, h]

theorem step_of_inbox_nil {s : State} (h : s.inbox = []) : step s = .next s :=
  step_of_fetch_ends (by rw [fetch, h])

theorem step_pause {s : State} {d : Nat} {rest : List Input} (h : s.inbox = .pause d :: rest) :
    step s = .next (({ s with inbox := rest } : State).feed [.wait d]) :=
  step_of_fetch_ends (by rw [fetch, h])

/-- Settles O2: the record is taken and decoded, and what it decodes to is all that runs. -/
theorem stepRunsTheDecodedInstruction : Obligations.StepRunsTheDecodedInstruction := by
  refine ⟨fun s p env bytes rest i hr hin hd hq => ?_, fun s => step_of_inbox_nil, fun s d rest hin => ?_⟩
  · exact step_of_fetch_run ((fetch_record hin).trans (fetchRecord_of_decode (s := s.taken env rest) hr hd hq))
  · exact ⟨_, step_pause hin, rfl, rfl, rfl, rfl, rfl⟩

/-! ### What an instruction that goes on did -/

/-- A host operation ran; or a call was refused, and only the mark is new; or an internal primitive ran inside an operation; or a larger system fed
the controller. -/
inductive Did (i : Instr) (s t : State) : Prop
  | called (hp : i.port = .host) (hq : s.seq = .idle) (hw : i.wf = true) (hi : s.init = decide (i ≠ .opInitialize))
      (htimes : timesPass i s) (ht : t = (hostFields i s).emit (hostEvents (hostGate i s) i s))
  | marked (c : RefCode) (op : Option Nat) (ht : t = s.mark c op)
  | issued (hp : i.port = .seq) (op k : Nat) (g : Bool) (hin : s.inside op k g)
      (ht : t = ({ seqFields i s with seq := .inOp op (k + (seqEvents g i s).length) g } : State).emit (seqEvents g i s))
  | fed (hh : i.port ≠ .host) (hq : i.port ≠ .seq) (evs : List Event) (ht : t = s.feed evs)

theorem exec_seq_did {i : Instr} {s t : State} (hp : i.port = .seq) (h : exec i s = .next t) : Did i s t := by
  have hr : s.refused = false := by
    by_contra hr
    rw [exec_seq_refused hp (by simpa using hr)] at h
    cases h
  cases hq : s.seq with
  | idle =>
    rw [exec_seq hp hr, hq] at h
    exact .marked _ _ (Host.Outcome.next.inj h).symm
  | inOp op k g =>
    rw [exec_seq_inside hp ⟨hr, hq⟩] at h
    exact .issued hp op k g ⟨hr, hq⟩ (Host.Outcome.next.inj h).symm

theorem exec_did {i : Instr} {s t : State} (h : exec i s = .next t) : Did i s t := by
  by_cases hh : i.port = .host
  · obtain ⟨-, ⟨c, ht⟩ | ⟨hq, hw, hi, htimes, ht⟩⟩ := exec_host_next hh h
    · exact .marked c _ ht
    · exact .called hh hq hw hi htimes ht
  by_cases hq : i.port = .seq
  · exact exec_seq_did hq h
  · obtain ⟨evs, hfeed⟩ := exec_line_feeds s hh hq
    rw [hfeed] at h
    exact .fed hh hq evs (Host.Outcome.next.inj h).symm

/-! ### Idle to idle -/

theorem exec_keeps_idle {i : Instr} {s t : State} (hq : s.seq = .idle) (h : exec i s = .next t) : t.seq = .idle := by
  cases exec_did h with
  | called _ _ _ _ _ ht =>
    obtain ⟨-, -, hseq, -⟩ := hostFields_keeps i s
    rw [ht, State.emit_seq, hseq, hq]
  | marked c op ht => rw [ht, State.mark_seq, hq]
  | issued _ op k g hin _ =>
    rw [hin.2] at hq
    cases hq
  | fed _ _ evs ht => rw [ht, State.feed_seq, hq]

theorem took_keeps_idle {p : Port} {bytes : List Byte} {s t : State} (hq : s.seq = .idle) (h : Took p bytes s t) : t.seq = .idle := by
  cases h with
  | called _ i _ _ he => exact exec_keeps_idle hq he
  | refusedCall _ c ht => rw [ht, State.mark_seq, hq]
  | nothing _ ht => rw [ht, hq]
  | frame _ n i rest _ he => exact exec_keeps_idle (by rw [State.putBack_seq, hq]) he
  | onLine _ n evs ht _ => rw [ht, State.feed_seq, State.putBack_seq, hq]
  | ill _ n ht => rw [← Host.Outcome.next.inj ht, State.misfeed_seq, State.putBack_seq, hq]

/-- Settles O4: no input of a step leaves an operation in progress where there was none. -/
theorem everyStepFromIdleEndsIdle : Obligations.EveryStepFromIdleEndsIdle := by
  intro s t hq h
  cases step_next h with
  | waited _ ht => rw [ht, hq]
  | paused d rest _ ht => rw [ht, State.feed_seq, hq]
  | reset rest _ ht => rw [ht]; rfl
  | took p env bytes rest _ _ ht => exact took_keeps_idle (s := s.taken env rest) hq ht

end Sys2Proof.Machine
end

section
/-! PROOFS. What every step keeps (spec 10_state.md R31, R38, 42_scheduler.md R178, 47_display_observer.md R210 to R216): the invariant, the
trace with the controller behind it, and the controller in step. Each is read off what an instruction did (`Did`). -/

namespace Sys2Proof.Machine

/-! ### The invariant and the updates of the state -/

/-- Settles O56: field by field. -/
theorem resetMeetsTheInvariant : Obligations.ResetMeetsTheInvariant :=
  ⟨by decide, by decide, by decide, by decide, by decide, by decide, by decide⟩

theorem inv_row {s : State} (h : s.Inv) (r : RowIx) : (s.row r).ok := by
  cases r
  · exact h.row0
  · exact h.row1

theorem inv_setRow {s : State} (h : s.Inv) (r : RowIx) {rb : RowBuffer} (hrb : rb.ok) : (s.setRow r rb).Inv := by
  cases r
  · exact ⟨hrb, h.row1, h.times, h.layout, h.mark, h.lines, h.panel⟩
  · exact ⟨h.row0, hrb, h.times, h.layout, h.mark, h.lines, h.panel⟩

theorem inv_setClk {s : State} (h : s.Inv) {k : Nat} (hk : k < 4294967296) : (s.setClk k).Inv :=
  ⟨h.row0, h.row1, ⟨hk, h.times.2⟩, h.layout, h.mark, h.lines, h.panel⟩

theorem inv_setOv {s : State} (h : s.Inv) {o : Overlay} (ho : o.expiry < 4294967296) : (s.setOv o).Inv :=
  ⟨h.row0, h.row1, ⟨h.times.1, ho⟩, h.layout, h.mark, h.lines, h.panel⟩

theorem inv_setCtl {s : State} (h : s.Inv) (c : Ctl) : (s.setCtl c).Inv := ⟨h.row0, h.row1, h.times, h.layout, h.mark, h.lines, h.panel⟩

theorem inv_setEnt {s : State} (h : s.Inv) (e : Ent) : (s.setEnt e).Inv := ⟨h.row0, h.row1, h.times, h.layout, h.mark, h.lines, h.panel⟩

theorem inv_initFields {s : State} (h : s.Inv) : s.initFields.Inv :=
  ⟨h.row0, h.row1, h.times, ⟨.inr rfl, fun _ => ⟨rfl, rfl, rfl⟩⟩, h.mark, h.lines, h.panel⟩

/-- The sequencer and the inputs are no part of the invariant. -/
theorem inv_inputs {s : State} (h : s.Inv) (q : Seq) (env : Env) (inbox : List Input) :
    ({ s with seq := q, env := env, inbox := inbox } : State).Inv := ⟨h.row0, h.row1, h.times, h.layout, h.mark, h.lines, h.panel⟩

theorem inv_putBack {s : State} (h : s.Inv) (p : Port) (bytes : List Byte) : (s.putBack p bytes).Inv := by
  cases bytes
  · exact h
  · exact inv_inputs h s.seq s.env _

theorem inv_feed {s : State} (h : s.Inv) (evs : List Event) : (s.feed evs).Inv := inv_bus h _ h.lines (Panel.ok_replay _ _ h.panel)

theorem inv_misfeed {s : State} (h : s.Inv) : s.misfeed.Inv := inv_bus h _ h.lines h.panel

/-- A firmware reset keeps the controller, and sets every other field the invariant speaks of (70_reset_and_hazards.md R270, R272). -/
theorem inv_firmwareReset {s : State} (h : s.Inv) : s.firmwareReset.Inv where
  row0 := resetMeetsTheInvariant.row0
  row1 := resetMeetsTheInvariant.row1
  times := resetMeetsTheInvariant.times
  layout := by
    refine ⟨?_, nofun⟩
    show (if Config.bootTwoLines s.boots then 2 else 1) = 1 ∨ (if Config.bootTwoLines s.boots then 2 else 1) = 2
    split
    · exact .inr rfl
    · exact .inl rfl
  mark := rfl
  lines := ⟨rfl, rfl⟩
  panel := h.panel

/-! ### The invariant and the instructions -/

theorem inv_overlay {s : State} (h : s.Inv) {dur : Nat} (ht : s.readClock + dur < 4294967296) :
    ((s.setClk s.readClock).setOv { active := true, expiry := s.readClock + dur }).Inv :=
  inv_setOv (inv_setClk h (State.readClock_lt s h)) ht

theorem inv_setText {s : State} (h : s.Inv) (r : RowIx) (text : Text) : (s.setRow r ((s.row r).setText text)).Inv :=
  inv_setRow h r (RowBuffer.ok_setText _ text (inv_row h r))

theorem inv_tick {s : State} (h : s.Inv) {now : Nat} (ht : now + 450 < 4294967296) : (hostFields (.tick now) s).Inv := by
  have hclk : (s.setClk now).Inv := inv_setClk h (by omega)
  rw [hostFields]
  split
  · split
    · exact inv_setOv hclk h.times.2
    · exact hclk
  · exact inv_setRow (inv_setRow hclk .row0 (RowBuffer.ok_tick now _ h.row0 ht)) .row1 (RowBuffer.ok_tick now _ h.row1 ht)

/-- A host operation keeps the invariant: its time checks keep the timestamps below the limit (42_scheduler.md R159). -/
theorem inv_hostFields {i : Instr} {s : State} (h : s.Inv) (ht : timesPass i s) : (hostFields i s).Inv := by
  cases i
  case opInitialize => exact inv_initFields h
  case displayOn | displayOff | setCursorVisible | blinkOn | blinkOff => exact inv_setCtl h _
  case setScrollDirection | setAutoscroll => exact inv_setEnt h _
  case showOverlay => exact inv_overlay h ht
  case print text ms =>
    rw [hostFields]
    split
    next => exact inv_setText h .row0 text
    next hms => exact inv_overlay h (ht.resolve_left hms)
  case setBackground row text => exact inv_setText h (clampRow row) text
  case setBackgroundRows upper lower => exact inv_setText (inv_setText h .row0 upper) .row1 lower
  case setAnimationMode row mode => exact inv_setRow h _ (inv_row h (clampRow row))
  case tick => exact inv_tick h ht.2
  all_goals exact h

theorem inv_seqFields {i : Instr} {s : State} (h : s.Inv) : (seqFields i s).Inv := by
  cases i
  case stepRow r => exact inv_setRow h r (RowBuffer.ok_step _ (inv_row h r))
  all_goals exact h

theorem exec_keeps_inv {i : Instr} {s t : State} (h : s.Inv) (he : exec i s = .next t) : t.Inv := by
  cases exec_did he with
  | called _ _ _ _ htimes ht => rw [ht]; exact inv_emit (inv_hostFields h htimes) _
  | marked c op ht => rw [ht]; exact inv_mark h c op
  | issued _ op k g _ ht => rw [ht]; exact inv_emit (inv_inputs (inv_seqFields h) _ _ _) _
  | fed _ _ evs ht => rw [ht]; exact inv_feed h evs

theorem took_keeps_inv {p : Port} {bytes : List Byte} {s t : State} (h : s.Inv) (ht : Took p bytes s t) : t.Inv := by
  cases ht with
  | called _ i _ _ he => exact exec_keeps_inv h he
  | refusedCall _ c ht => rw [ht]; exact inv_mark h c _
  | nothing _ ht => rw [ht]; exact h
  | frame _ n i rest _ he => exact exec_keeps_inv (inv_putBack h p _) he
  | onLine _ n evs ht _ => rw [ht]; exact inv_feed (inv_putBack h p _) evs
  | ill _ n ht => rw [← Host.Outcome.next.inj ht]; exact inv_misfeed (inv_putBack h p _)

/-- Settles O57: an input that is no instruction writes the controller's side, the mark or the reset values. -/
theorem everyStepKeepsTheInvariant : Obligations.EveryStepKeepsTheInvariant := by
  intro s t h hstep
  cases step_next hstep with
  | waited _ ht => rw [ht]; exact h
  | paused d rest _ ht => rw [ht]; exact inv_feed (inv_inputs h _ _ rest) _
  | reset rest _ ht => rw [ht]; exact inv_firmwareReset (inv_inputs h _ _ rest)
  | took p env bytes rest _ _ ht => exact took_keeps_inv (inv_inputs h _ env rest) ht

/-! ### The trace and the controller -/

theorem bus_after_nil (b : Bus) : b.After [] b := play_after b []

theorem seqFields_bus (i : Instr) (s : State) : (seqFields i s).bus = s.bus := by
  obtain ⟨r0, r1, h⟩ := seqFields_rows i s
  rw [h]

/-- Settles O58: an operation's events are all it does to the bus side, and a call that is refused has none. -/
theorem theTraceOnlyGrowsAndMovesTheController : Obligations.TheTraceOnlyGrowsAndMovesTheController := by
  intro i s t hp h
  cases exec_did h with
  | called _ _ _ _ _ ht =>
    obtain ⟨-, hbus, -, -⟩ := hostFields_keeps i s
    rw [ht, State.emit_bus, hbus]
    exact ⟨_, play_after _ _⟩
  | marked c op ht => rw [ht]; exact ⟨[], bus_after_nil _⟩
  | issued _ op k g _ ht =>
    rw [ht, State.emit_bus, seqFields_bus]
    exact ⟨_, play_after _ _⟩
  | fed hh hq => exact absurd hp (not_or.mpr ⟨hh, hq⟩)

/-! ### The controller in step -/

/-- A command of the block other than clear and home, whose execution is over within the settle (47_display_observer.md R216). -/
abbrev QuickCommand (v : Byte) : Prop := blockCommand v = true ∧ v ≠ 1 ∧ v ≠ 2

theorem quickCommand_ctlByte (d c b : Bool) : QuickCommand (ctlByte d c b) := by revert d c b; decide

theorem quickCommand_entByte (i s : Bool) : QuickCommand (entByte i s) := by revert i s; decide

theorem quickCommand_cgaByte (slot : Nat) : QuickCommand (cgaByte slot) := by
  have h : ∀ b : Byte, QuickCommand (0x40 ||| b) := by decide
  exact h _

theorem synced_quick {p : Panel} (h : p.Synced) {v : Byte} (hv : QuickCommand v) : (p.replay (cmdEvents true v)).Synced := by
  obtain ⟨hblock, hclear, hhome⟩ := hv
  exact synced_cmd p h v hblock hclear hhome

theorem synced_expiry {p : Panel} (h : p.Synced) (b0 b1 : Byte) (rb0 rb1 : RowBuffer) :
    (p.replay (cmdSlowEvents true clearByte ++ rowEvents true b0 rb0 ++ rowEvents true b1 rb1)).Synced := by
  rw [replay_append, replay_append]
  exact synced_row _ (synced_row _ (synced_cmdSlow p h _ (.inl rfl)) _ _) _ _

theorem synced_rowIf {p : Panel} (h : p.Synced) (c : Bool) (b : Byte) (rb : RowBuffer) :
    (p.replay (if c then rowEvents true b rb else [])).Synced := by
  split
  · exact synced_row p h b rb
  · exact h

/-- The bytes of every operation leave the controller done with the last of them; INITIALIZE brings it into step from anywhere. -/
theorem synced_hostEvents {p : Panel} (h : p.Synced) (i : Instr) (s : State) : (p.replay (hostEvents true i s)).Synced := by
  cases i
  case opInitialize => exact (init_replay p).1
  case clear => exact synced_cmdSlow p h _ (.inl rfl)
  case home => exact synced_cmdSlow p h _ (.inr rfl)
  case setCursor => exact synced_quick h (blockCommand_dda _)
  case displayOn | displayOff | setCursorVisible | blinkOn | blinkOff => exact synced_quick h (quickCommand_ctlByte _ _ _)
  case setScrollDirection | setAutoscroll => exact synced_quick h (quickCommand_entByte _ _)
  case writeGlyph => exact synced_data p h _
  case defineGlyph =>
    rw [hostEvents, replay_append]
    exact synced_text _ (synced_quick h (quickCommand_cgaByte _)) _
  case showOverlay => exact synced_overlay p h s _ _
  case print =>
    rw [hostEvents]
    split
    · split
      · exact h
      · exact synced_row p h _ _
    · exact synced_overlay p h s _ _
  case setBackground =>
    rw [hostEvents]
    split
    · exact h
    · exact synced_row p h _ _
  case setBackgroundRows =>
    rw [hostEvents]
    split
    · exact h
    · rw [replay_append]
      exact synced_row _ (synced_row p h _ _) _ _
  case tick =>
    rw [hostEvents]
    split
    · split
      · exact synced_expiry h _ _ _ _
      · exact h
    · rw [replay_append]
      exact synced_rowIf (synced_rowIf h _ _ _) _ _ _
  all_goals exact h

/-- Under a closed gate only time passes for the controller (log entry 31). -/
theorem synced_hostEvents_gate {p : Panel} (h : p.Synced) {i : Instr} (hn : i ≠ .opInitialize) (s : State) (g : Bool) :
    (p.replay (hostEvents g i s)).Synced := by
  cases g with
  | true => exact synced_hostEvents h i s
  | false =>
    rw [hostEvents_gate hn]
    exact synced_gated p h _ (allGated_gate _)

/-- Settles O60: the events of an operation keep the controller in step under either gate value, and a call that is refused has none. -/
theorem hostOperationsKeepTheControllerInStep : Obligations.HostOperationsKeepTheControllerInStep := by
  intro i s t hp hsync h
  obtain ⟨-, ⟨c, rfl⟩ | ⟨-, -, -, -, rfl⟩⟩ := exec_host_next hp h
  · exact hsync
  obtain ⟨-, hbus, -, -⟩ := hostFields_keeps i s
  rw [State.emit_bus, hbus, play_panel]
  by_cases hn : i = .opInitialize
  · subst hn
    exact synced_hostEvents hsync .opInitialize s
  · exact synced_hostEvents_gate hsync hn s _

end Sys2Proof.Machine
end

section
/-! PROOFS. The trace of a block passes the checker (spec 47_display_observer.md R231, 40_bus_adapter.md R104). INITIALIZE's events read back as the
handshake and its bytes; every later operation appends whole controller bytes of no never-emitted form, with their settles. -/

namespace Sys2Proof.Machine

/-! ### A trace with more bytes behind it -/

/-- The trace reads back as the handshake and the controller bytes `cs` (30_encoding.md R92). -/
structure ReadsAs (tr : List Event) (cs : List (Bool × Byte)) : Prop where
  closed : (xmitBytes tr).any (fun b => (unpack b).isNone) = false
  pairs : ∃ ns, pairNibbles (xmitBytes tr) = some ns ∧ ns.take 4 = handshakeNibbles ∧ pairBytes (ns.drop 4) = some cs

theorem readTrace_of_readsAs {tr : List Event} {cs : List (Bool × Byte)} (h : ReadsAs tr cs) : readTrace tr = .ok cs := by
  obtain ⟨ns, hnibbles, hshake, hbytes⟩ := h.pairs
  have hne : ns.isEmpty = false := by
    cases ns with
    | nil => cases hshake
    | cons => rfl
  simp [readTrace, h.closed, hnibbles, hne, hshake, hbytes]

theorem readsAs_of_readTrace {tr : List Event} {cs : List (Bool × Byte)} (h : readTrace tr = .ok cs) (hcs : cs ≠ []) : ReadsAs tr cs := by
  unfold readTrace at h
  split at h
  · cases h
  next hclosed =>
  split at h
  · cases h
  next ns hnibbles =>
  split at h
  · cases h; exact absurd rfl hcs
  split at h
  · cases h
  next hshake =>
  split at h
  · cases h
  next bs hbytes =>
  cases h
  exact ⟨by simpa using hclosed, ns, hnibbles, not_not.mp hshake, hbytes⟩

theorem handshake_length_le {ns : List (Bool × Nibble)} (h : ns.take 4 = handshakeNibbles) : 4 ≤ ns.length := by
  have hlen := congrArg List.length h
  rw [List.length_take, show handshakeNibbles.length = 4 from rfl] at hlen
  omega

theorem ReadsAs.append {tr evs : List Event} {cs ds : List (Bool × Byte)} (h : ReadsAs tr cs) (h' : Sends evs ds) :
    ReadsAs (tr ++ evs) (cs ++ ds) := by
  obtain ⟨ns, hnibbles, hshake, hbytes⟩ := h.pairs
  obtain ⟨ms, hnibbles', hbytes'⟩ := h'.pairs
  have hlen := handshake_length_le hshake
  refine ⟨by rw [xmitBytes_append, List.any_append, h.closed, h'.closed]; rfl, ns ++ ms, ?_, ?_, ?_⟩
  · rw [xmitBytes_append]
    exact pairNibbles_append hnibbles hnibbles'
  · rw [List.take_append_of_le_length hlen, hshake]
  · rw [List.drop_append_of_le_length hlen]
    exact pairBytes_append hbytes hbytes'

/-- Each bus byte has its interval, and there is one after the last. -/
theorem ReadsAs.length_gaps {tr : List Event} {cs : List (Bool × Byte)} (h : ReadsAs tr cs) :
    (gaps 0 tr).length = (leastGaps cs).length := by
  obtain ⟨ns, hnibbles, hshake, hbytes⟩ := h.pairs
  have hlen := handshake_length_le hshake
  have hcs := pairBytes_length hbytes
  rw [List.length_drop] at hcs
  have hshakeGaps : (strobeGaps handshakeSettles).length = 8 := rfl
  rw [gaps_length, pairNibbles_length hnibbles, leastGaps, List.length_cons, List.length_append, hshakeGaps, strobeGaps_bytes_length]
  omega

theorem keepsGaps_leastGaps_append {tr evs : List Event} {cs ds : List (Bool × Byte)} (hreads : ReadsAs tr cs)
    (hkeeps : keepsGaps (leastGaps cs) (gaps 0 tr) = true) (h : Sends evs ds) :
    keepsGaps (leastGaps (cs ++ ds)) (gaps 0 (tr ++ evs)) = true := by
  have hne : leastGaps cs ≠ [] := nofun
  have hlast := List.dropLast_append_getLast hne
  have hlen : (gaps 0 tr).length = (leastGaps cs).dropLast.length + 1 := by
    rw [hreads.length_gaps, List.length_dropLast, leastGaps, List.length_cons, Nat.add_sub_cancel]
  rw [← hlast] at hkeeps
  rw [leastGaps_append, ← hlast, List.append_assoc, List.singleton_append]
  exact keepsGaps_append hlen hkeeps fun w' hw' => h.keeps _ w' hw'

theorem commandsOk_append {cs ds : List (Bool × Byte)} (hne : cs ≠ []) (h : commandsOk cs = true)
    (h' : ds.all (fun d => !neverEmitted false d) = true) : commandsOk (cs ++ ds) = true := by
  cases cs with
  | nil => exact absurd rfl hne
  | cons c cs =>
    rw [commandsOk, Bool.and_eq_true] at h
    rw [List.cons_append, commandsOk, List.all_append, h.1, h.2, h']
    rfl

/-! ### What an operation appends -/

/-- Whole controller bytes with their settles, none of a never-emitted form (30_encoding.md R85). -/
def Conforms (evs : List Event) : Prop := ∃ ds, Sends evs ds ∧ ds.all (fun d => !neverEmitted false d) = true

theorem conforms_nil : Conforms [] := ⟨[], .nil, rfl⟩

theorem Conforms.append {a b : List Event} (ha : Conforms a) (hb : Conforms b) : Conforms (a ++ b) := by
  obtain ⟨xs, hxs, hxsOk⟩ := ha
  obtain ⟨ys, hys, hysOk⟩ := hb
  exact ⟨xs ++ ys, hxs.append hys, by rw [List.all_append, hxsOk, hysOk]; rfl⟩

theorem conforms_ite {c : Prop} [Decidable c] {a b : List Event} (ha : Conforms a) (hb : Conforms b) : Conforms (if c then a else b) := by
  split
  · exact ha
  · exact hb

theorem conforms_cmd {v : Byte} (g : Bool) (hv : QuickCommand v) (h : neverEmitted false (false, v) = false) : Conforms (cmdEvents g v) := by
  obtain ⟨-, hclear, hhome⟩ := hv
  exact ⟨_, Sends.send g false v (.inr ⟨hclear, hhome⟩), by simp [h]⟩

theorem conforms_text (g : Bool) (t : List Byte) : Conforms (textEvents g t) :=
  ⟨_, Sends.text g t, by simp [neverEmitted]⟩

theorem conforms_data (g : Bool) (v : Byte) : Conforms (dataEvents g v) := ⟨_, Sends.send g true v (.inl rfl), rfl⟩

theorem conforms_clear (g : Bool) : Conforms (cmdSlowEvents g clearByte) := ⟨_, Sends.slow g clearByte (.inl rfl), by decide⟩

theorem conforms_home (g : Bool) : Conforms (cmdSlowEvents g homeByte) := ⟨_, Sends.slow g homeByte (.inr rfl), by decide⟩

theorem conforms_ctlByte (g d c b : Bool) : Conforms (cmdEvents g (ctlByte d c b)) :=
  conforms_cmd g (quickCommand_ctlByte d c b) (by revert d c b; decide)

theorem conforms_entByte (g i s : Bool) : Conforms (cmdEvents g (entByte i s)) :=
  conforms_cmd g (quickCommand_entByte i s) (by revert i s; decide)

/-- An address command has bit 7, which no never-emitted command has. -/
theorem conforms_ddaByte (g : Bool) (a : Nat) : Conforms (cmdEvents g (ddaByte a)) := by
  have h : ∀ b : Byte, neverEmitted false (false, 0x80 ||| b) = false := by decide
  exact conforms_cmd g (blockCommand_dda a) (h _)

/-- A slot's first row is a multiple of eight (30_encoding.md R81, R85). -/
theorem conforms_cgaByte (g : Bool) (slot : Nat) : Conforms (cmdEvents g (cgaByte (clampSlot slot))) := by
  have hslot : min slot 7 ≤ 7 := Nat.min_le_right slot 7
  refine conforms_cmd g (quickCommand_cgaByte _) ?_
  rw [clampSlot]
  generalize min slot 7 = k at hslot
  revert k
  decide

theorem conforms_row (g : Bool) (base : Byte) (rb : RowBuffer) : Conforms (rowEvents g base rb) :=
  (conforms_ddaByte g _).append (conforms_text g _)

theorem conforms_overlayRow (s : State) (g : Bool) (r : RowIx) (t : Text) : Conforms (s.overlayRowEvents g r t) :=
  (conforms_ddaByte g _).append (conforms_text g _)

theorem conforms_overlay (s : State) (g : Bool) (t0 t1 : Text) : Conforms (s.overlayEvents g t0 t1) :=
  ((conforms_clear g).append (conforms_overlayRow s g .row0 t0)).append (conforms_overlayRow s g .row1 t1)

/-- What every operation but INITIALIZE appends to the trace. -/
theorem conforms_hostEvents {i : Instr} (hn : i ≠ .opInitialize) (g : Bool) (s : State) : Conforms (hostEvents g i s) := by
  cases i
  case opInitialize => exact absurd rfl hn
  case clear => exact conforms_clear g
  case home => exact conforms_home g
  case setCursor => exact conforms_ddaByte g _
  case displayOn | displayOff | setCursorVisible | blinkOn | blinkOff => exact conforms_ctlByte g _ _ _
  case setScrollDirection | setAutoscroll => exact conforms_entByte g _ _
  case writeGlyph => exact conforms_data g _
  case defineGlyph => exact (conforms_cgaByte g _).append (conforms_text g _)
  case showOverlay => exact conforms_overlay s g _ _
  case print => exact conforms_ite (conforms_ite conforms_nil (conforms_row g _ _)) (conforms_overlay s g _ _)
  case setBackground => exact conforms_ite conforms_nil (conforms_row g _ _)
  case setBackgroundRows => exact conforms_ite conforms_nil ((conforms_row g _ _).append (conforms_row g _ _))
  case tick =>
    exact conforms_ite (conforms_ite (((conforms_clear g).append (conforms_row g _ _)).append (conforms_row g _ _)) conforms_nil)
      ((conforms_ite (conforms_row g _ _) conforms_nil).append (conforms_ite (conforms_row g _ _) conforms_nil))
  all_goals exact conforms_nil

/-! ### The trace of a block -/

/-- `TraceInv` looks at `init` and the trace alone. -/
theorem traceInv_congr {s t : State} (h : s.TraceInv) (hi : t.init = s.init) (ht : t.bus.trace = s.bus.trace) : t.TraceInv := by
  unfold State.TraceInv at h ⊢
  rwa [hi, ht]

theorem traceInv_initialized {t : State} (hi : t.init = true) (ht : t.bus.trace = initEvents) : t.TraceInv := by
  rw [State.TraceInv, if_pos hi, ht]
  exact ⟨_, rfl, by decide, by decide, by decide⟩

theorem traceInv_append {s t : State} {evs : List Event} (h : s.TraceInv) (his : s.init = true) (hit : t.init = true)
    (ht : t.bus.trace = s.bus.trace ++ evs) (hevs : Conforms evs) : t.TraceInv := by
  rw [State.TraceInv, if_pos his] at h
  obtain ⟨cs, hread, hne, hcommands, hkeeps⟩ := h
  obtain ⟨ds, hsends, hds⟩ := hevs
  have hreads := readsAs_of_readTrace hread hne
  rw [State.TraceInv, if_pos hit, ht]
  exact ⟨cs ++ ds, readTrace_of_readsAs (hreads.append hsends), List.append_ne_nil_of_left_ne_nil hne ds,
    commandsOk_append hne hcommands hds, keepsGaps_leastGaps_append hreads hkeeps hsends⟩

/-- The checker asks for less: it does not judge the interval after the last byte (log entry 23). -/
theorem checkTrace_of_traceInv {s : State} (h : s.TraceInv) : checkTrace s.bus.trace = none := by
  unfold State.TraceInv at h
  split at h
  · obtain ⟨cs, hread, -, hcommands, hkeeps⟩ := h
    simp [checkTrace, hread, hcommands, keepsGaps_dropLast hkeeps]
  · rw [h]
    rfl

theorem exec_keeps_traceInv {i : Instr} {s t : State} (hp : i.port = .host) (h : s.TraceInv) (he : exec i s = .next t) : t.TraceInv := by
  obtain ⟨-, ⟨c, rfl⟩ | ⟨-, -, hi, -, rfl⟩⟩ := exec_host_next hp he
  · exact traceInv_congr h rfl rfl
  obtain ⟨-, hbus, -, -⟩ := hostFields_keeps i s
  have htrace : ((hostFields i s).emit (hostEvents (hostGate i s) i s)).bus.trace = s.bus.trace ++ hostEvents (hostGate i s) i s := by
    rw [State.emit_bus, play_trace, hbus]
  by_cases hn : i = .opInitialize
  · subst hn
    have hempty : s.bus.trace = [] := by
      rw [State.TraceInv, hi] at h
      exact h
    exact traceInv_initialized rfl (by rw [htrace, hempty]; rfl)
  · have his : s.init = true := by simp [hi, hn]
    obtain ⟨-, -, -, hinit⟩ := hostFields_layout s hn
    exact traceInv_append h his (hinit.trans his) htrace (conforms_hostEvents hn _ s)

/-! ### The display -/

/-- The controller's side has been fed the block's trace and nothing else. -/
abbrev Bus.OwnFeed (b : Bus) : Prop := b.fed = b.trace ∧ b.misfed = false

theorem Bus.OwnFeed.after {b b' : Bus} {evs : List Event} (h : b.OwnFeed) (hafter : b.After evs b') : b'.OwnFeed :=
  ⟨by rw [hafter.fed, hafter.trace, h.1], by rw [hafter.misfed, h.2]⟩

theorem display_of_ownFeed {s : State} (h : s.TraceInv) (hfeed : s.bus.OwnFeed) : ∃ picture, s.display = .ok picture := by
  obtain ⟨hfed, hmisfed⟩ := hfeed
  exact ⟨_, by rw [State.display, hmisfed, hfed, checkTrace_of_traceInv h]; rfl⟩

/-- A step on what the host or a firmware reset gives keeps the trace a block's, and feeds the controller nothing else but in a pause. -/
theorem step_keeps_traceInv {s t : State} (h : s.TraceInv) (hhost : ∀ p env bytes rest, s.inbox = .record p env bytes :: rest → p = .host)
    (hstep : step s = .next t) :
    t.TraceInv ∧ (s.bus.OwnFeed → (∀ d rest, s.inbox ≠ .pause d :: rest) → t.bus.OwnFeed) := by
  cases step_next hstep with
  | waited _ ht => rw [ht]; exact ⟨h, fun hfeed _ => hfeed⟩
  | paused d rest hin ht => rw [ht]; exact ⟨traceInv_congr h rfl rfl, fun _ hpause => absurd hin (hpause d rest)⟩
  | reset rest _ ht => rw [ht]; exact ⟨rfl, fun _ _ => ⟨rfl, rfl⟩⟩
  | took p env bytes rest hin _ ht =>
    obtain rfl := hhost p env bytes rest hin
    have htaken : (s.taken env rest).TraceInv := traceInv_congr h rfl rfl
    cases ht with
    | called _ i hd _ he =>
      have hp : i.port = .host := port_of_decodeHost hd
      obtain ⟨evs, hafter⟩ := theTraceOnlyGrowsAndMovesTheController i _ t (.inl hp) he
      exact ⟨exec_keeps_traceInv hp htaken he, fun hfeed _ => hfeed.after hafter⟩
    | refusedCall _ c ht => rw [ht]; exact ⟨traceInv_congr h rfl rfl, fun hfeed _ => hfeed⟩
    | nothing hp _ | frame hp _ _ _ _ _ | onLine hp _ _ _ _ | ill hp _ _ => exact absurd rfl hp.1

/-- Settles O59: the checker passes every trace of a block, and what it judges for the display is that trace. -/
theorem hostStepsKeepTheTraceConformant : Obligations.HostStepsKeepTheTraceConformant := by
  intro s t h _ hhost hstep
  obtain ⟨htrace, hown⟩ := step_keeps_traceInv h hhost hstep
  refine ⟨htrace, checkTrace_of_traceInv htrace, fun hfed hmisfed hpause => ?_⟩
  have hfeed := hown ⟨hfed, hmisfed⟩ hpause
  exact ⟨hfeed.1, hfeed.2, display_of_ownFeed htrace hfeed⟩

end Sys2Proof.Machine
end

section
/-! PROOFS. The serial link and the waits (spec 40_bus_adapter.md R101 to R107, 70_reset_and_hazards.md R287): the levels of one byte over the
link, a bus byte a larger system feeds, the runs a trace admits, and the least time its event sequences take. -/

namespace Sys2Proof.Machine

/-! ### One bus byte -/

theorem lineSteps_eq (b : Byte) : lineSteps b =
    [⟨b.getLsbD 0, false, true⟩, ⟨b.getLsbD 0, true, true⟩, ⟨b.getLsbD 0, false, true⟩,
     ⟨b.getLsbD 1, false, true⟩, ⟨b.getLsbD 1, true, true⟩, ⟨b.getLsbD 1, false, true⟩,
     ⟨b.getLsbD 2, false, true⟩, ⟨b.getLsbD 2, true, true⟩, ⟨b.getLsbD 2, false, true⟩,
     ⟨b.getLsbD 3, false, true⟩, ⟨b.getLsbD 3, true, true⟩, ⟨b.getLsbD 3, false, true⟩,
     ⟨b.getLsbD 4, false, true⟩, ⟨b.getLsbD 4, true, true⟩, ⟨b.getLsbD 4, false, true⟩,
     ⟨b.getLsbD 5, false, true⟩, ⟨b.getLsbD 5, true, true⟩, ⟨b.getLsbD 5, false, true⟩,
     ⟨b.getLsbD 6, false, true⟩, ⟨b.getLsbD 6, true, true⟩, ⟨b.getLsbD 6, false, true⟩,
     ⟨b.getLsbD 7, false, true⟩, ⟨b.getLsbD 7, true, true⟩, ⟨b.getLsbD 7, false, true⟩,
     ⟨b.getLsbD 7, false, false⟩, ⟨b.getLsbD 7, false, true⟩] := rfl

theorem record_eq (bus : Bus) (e : Event) : bus.record e = { bus with trace := bus.trace ++ [e], fed := bus.fed ++ [e] } := rfl

/-- An open transmit drives the levels of its byte and records its event (40_bus_adapter.md R100). -/
theorem emit_xmit_drives (bus : Bus) (b : Byte) :
    bus.emit (.xmit b true) =
      { (lineSteps b).foldl Bus.drive { bus with lines := { bus.lines with sck := false, lat := true } } with
        trace := bus.trace ++ [.xmit b true], fed := bus.fed ++ [.xmit b true] } := by
  have htrace : (bus.shiftOut b).trace = bus.trace := by rw [shiftOut_spec]
  have hfed : (bus.shiftOut b).fed = bus.fed := by rw [shiftOut_spec]
  rw [Bus.emit, record_eq, htrace, hfed, Bus.shiftOut]

theorem exec_transmit_inside {s : State} {op k : Nat} {w : BusWord} (h : s.inside op k true) :
    exec (.transmit w) s = .next { s with seq := .inOp op (k + 1) true, bus := s.bus.emit (.xmit (pack w) true) } :=
  exec_seq_inside rfl h

/-- Where E was high and falls, the controller takes a nibble (47_display_observer.md R213). -/
theorem see_pack_falling {p : Panel} (r : Bool) (n : Nibble) (h : p.lcd.e = true) :
    p.see (pack ⟨r, false, n⟩) = Panel.strobe r n { p with lcd := { p.lcd with e := false } } := by
  simp only [Panel.see, pack_e, pack_rs, pack_n, h, Bool.not_false, Bool.and_self, if_true]

/-- A bus byte without a falling E has no other effect than the level of E. -/
theorem see_pack_still {p : Panel} (r e : Bool) (n : Nibble) (h : ¬ (p.lcd.e = true ∧ e = false)) :
    p.see (pack ⟨r, e, n⟩) = { p with lcd := { p.lcd with e := e } } := by
  have hstill : (p.lcd.e && !e) = false := by simpa using h
  simp only [Panel.see, pack_e, hstill, Bool.false_eq_true, if_false]

theorem step_stray {s : State} {env : Env} {b : Byte} {rest : List Input} (hr : s.refused = false)
    (hin : s.inbox = .record .bus env [b] :: rest) (hb : b.getLsbD 6 = true ∨ b.getLsbD 0 = true) :
    step s = .next ((s.taken env rest).feed [.xmit b true]) := by
  have hrun : ¬ (s.taken env rest).refused = true := by simp [State.taken, hr]
  have hd : decode .bus ([b].take 1) = .error (.notBusByte b) := decodeBus_stray hb []
  apply step_of_fetch_ends
  rw [fetch_record hin, fetchRecord.eq_def, if_neg hrun]
  simp only [fetchLine, hd]
  rfl

/-- The checker finds a byte outside the closed set wherever it stands (47_display_observer.md R231). -/
theorem checkTrace_stray {b : Byte} (hb : b.getLsbD 6 = true ∨ b.getLsbD 0 = true) (tr : List Event) :
    checkTrace (tr ++ [.xmit b true]) = some .outsideSet := by
  have hunpack : unpack b = none := if_pos (by simpa using hb)
  have hany : (xmitBytes (tr ++ [.xmit b true])).any (fun b => (unpack b).isNone) = true := by
    simp [xmitBytes_append, xmitBytes, hunpack]
  rw [checkTrace, readTrace, if_pos hany]

theorem display_of_stray {s : State} {b : Byte} {tr : List Event} (hb : b.getLsbD 6 = true ∨ b.getLsbD 0 = true)
    (hfed : s.bus.fed = tr ++ [.xmit b true]) : s.display = .error (if s.bus.misfed then .noFrame else .outsideSet) := by
  rw [State.display, hfed, checkTrace_stray hb]
  split <;> rfl

/-- Settles O11: TRANSMIT drives the link; a byte a larger system feeds reaches the controller alone, which strobes on a falling E. -/
theorem busByteGoesOverTheLink : Obligations.BusByteGoesOverTheLink := by
  refine ⟨lineSteps_eq, fun s op k w h => ⟨_, exec_transmit_inside h, ?_, ?_, ?_, ?_⟩, fun s r e n => ⟨_, rfl, rfl, ?_, ?_⟩,
    fun s env b rest hr hin hb => ⟨_, step_stray hr hin hb, rfl, display_of_stray hb rfl⟩⟩
  · rw [emit_xmit_drives]
  · rw [emit_xmit_open]
  · rw [emit_xmit_open]
  · rw [emit_xmit_open, pack_rs]
  · rintro hhigh rfl
    exact see_pack_falling r n hhigh
  · exact see_pack_still r e n

/-! ### Runs -/

/-- Starting each transmit as soon as the waits allow is admitted. -/
theorem admitsFrom_leastRun (t : Nat) (tr : List Event) : admitsFrom t tr (leastRun t tr) = true := by
  induction tr generalizing t with
  | nil => rfl
  | cons e tr ih =>
    cases e with
    | xmit b g => simp [leastRun, admitsFrom, ih]
    | wait d => exact ih (t + d)

/-- A run has one time for each transmit. -/
theorem length_of_admitsFrom {t : Nat} {tr : List Event} {ts : List Nat} (h : admitsFrom t tr ts = true) :
    ts.length = (xmitBytes tr).length := by
  induction tr generalizing t ts with
  | nil =>
    cases ts with
    | nil => rfl
    | cons => cases h
  | cons e tr ih =>
    cases e with
    | wait d => exact ih h
    | xmit b g =>
      cases ts with
      | nil => cases h
      | cons u ts =>
        simp only [admitsFrom, Bool.and_eq_true] at h
        simp [xmitBytes, ih h.2]

/-- The least run from an earlier start is at or before every admitted run, transmit by transmit. -/
theorem leastRun_le {t u : Nat} {tr : List Event} {ts : List Nat} (htu : t ≤ u) (h : admitsFrom u tr ts = true) (k : Nat) :
    (leastRun t tr)[k]?.getD 0 ≤ ts[k]?.getD 0 := by
  induction tr generalizing t u ts k with
  | nil => simp [leastRun]
  | cons e tr ih =>
    cases e with
    | wait d => exact ih (Nat.add_le_add_right htu d) h k
    | xmit b g =>
      cases ts with
      | nil => cases h
      | cons v ts =>
        simp only [admitsFrom, Bool.and_eq_true, decide_eq_true_eq] at h
        obtain ⟨huv, hrest⟩ := h
        have htv : t ≤ v := htu.trans huv
        cases k with
        | zero => exact htv
        | succ k => exact ih htv hrest k

/-- Settles O16: the least run starts each transmit at the earliest time, and no admitted run is ahead of it anywhere. -/
theorem waitsAreLowerBounds : Obligations.WaitsAreLowerBounds :=
  ⟨admitsFrom_leastRun 0, fun _ _ h => ⟨length_of_admitsFrom h, fun k _ => leastRun_le (Nat.le_refl 0) h k⟩⟩

/-! ### Least durations -/

theorem waitSum_append (a b : List Event) : waitSum (a ++ b) = waitSum a + waitSum b := by
  induction a with
  | nil => simp [waitSum]
  | cons e a ih =>
    cases e with
    | xmit b g => exact ih
    | wait t => simp [waitSum, ih, Nat.add_assoc]

theorem waitSum_nibbleEvents (g rs : Bool) (n : Nibble) : waitSum (nibbleEvents g rs n) = 101 := rfl

theorem waitSum_sendEvents (g rs : Bool) (v : Byte) : waitSum (sendEvents g rs v) = 202 := rfl

theorem length_xmitBytes_sendEvents (g rs : Bool) (v : Byte) : (xmitBytes (sendEvents g rs v)).length = 4 := rfl

/-- Of a byte's four bus bytes the first and the third have E high (40_bus_adapter.md R103). -/
theorem enables_sendEvents (g rs : Bool) (v : Byte) : ((xmitBytes (sendEvents g rs v)).filter (fun b => b.getLsbD 5)).length = 2 := by
  have hbytes : xmitBytes (sendEvents g rs v) =
    [pack ⟨rs, true, hiNibble v⟩, pack ⟨rs, false, hiNibble v⟩, pack ⟨rs, true, loNibble v⟩, pack ⟨rs, false, loNibble v⟩] := rfl
  simp only [hbytes, List.filter, pack_e]
  rfl

theorem waitSum_textEvents (g : Bool) (t : List Byte) : waitSum (textEvents g t) = 202 * t.length := by
  induction t with
  | nil => rfl
  | cons b t ih =>
    have hcons : textEvents g (b :: t) = sendEvents g true b ++ textEvents g t := rfl
    rw [hcons, waitSum_append, waitSum_sendEvents, ih, List.length_cons]
    omega

theorem length_xmitBytes_textEvents (g : Bool) (t : List Byte) : (xmitBytes (textEvents g t)).length = 4 * t.length := by
  induction t with
  | nil => rfl
  | cons b t ih =>
    have hcons : textEvents g (b :: t) = sendEvents g true b ++ textEvents g t := rfl
    rw [hcons, xmitBytes_append, List.length_append, length_xmitBytes_sendEvents, ih, List.length_cons]
    omega

theorem waitSum_cmd_text (g : Bool) (v : Byte) (t : List Byte) : waitSum (cmdEvents g v ++ textEvents g t) = 202 * (1 + t.length) := by
  rw [waitSum_append, cmdEvents, waitSum_sendEvents, waitSum_textEvents]
  omega

theorem length_xmitBytes_cmd_text (g : Bool) (v : Byte) (t : List Byte) :
    (xmitBytes (cmdEvents g v ++ textEvents g t)).length = 4 * (1 + t.length) := by
  rw [xmitBytes_append, List.length_append, cmdEvents, length_xmitBytes_sendEvents, length_xmitBytes_textEvents]
  omega

theorem waitSum_cmdSlowEvents (g : Bool) (v : Byte) : waitSum (cmdSlowEvents g v) = 2202 := by
  simp [cmdSlowEvents, cmdEvents, waitSum_append, waitSum_sendEvents, waitSum]

theorem waitSum_overlayEvents (s : State) (g : Bool) (t0 t1 : Text) :
    waitSum (s.overlayEvents g t0 t1) = 2202 + 202 * (2 + min t0.length 16 + min t1.length 16) := by
  have htrunc (t : Text) : (trunc t 16).length = min t.length 16 := by rw [trunc, List.length_take, Nat.min_comm]
  rw [State.overlayEvents, State.overlayRowEvents, State.overlayRowEvents, waitSum_append, waitSum_append, waitSum_cmdSlowEvents,
    waitSum_cmd_text, waitSum_cmd_text, htrunc, htrunc]
  omega

theorem waitSum_initEvents : waitSum initEvents = 51562 := by
  simp only [initEvents, handshakeEvents, cmdEvents, waitSum_append, waitSum_nibbleEvents, waitSum_sendEvents, waitSum_cmdSlowEvents, waitSum,
    Config.tPowerupMin, Config.tInit1Min, Config.tInit2Min, Config.tInit3Min, Nat.add_zero, Nat.reduceAdd]

theorem length_xmitBytes_initEvents : (xmitBytes initEvents).length = 24 := by
  obtain ⟨-, -, -, hbytes⟩ := initializeRunsTheHandshake State.reset
  rw [hbytes]
  rfl

/-- Settles O17: a byte takes 202 µs and four bus bytes, and the sequences are made of bytes and their own waits. -/
theorem leastDurationsAndCounts : Obligations.LeastDurationsAndCounts := by
  refine ⟨fun g rs n => ⟨waitSum_nibbleEvents g rs n, rfl⟩,
    fun g rs v => ⟨waitSum_sendEvents g rs v, length_xmitBytes_sendEvents g rs v, enables_sendEvents g rs v⟩,
    waitSum_cmdSlowEvents, ⟨waitSum_initEvents, length_xmitBytes_initEvents⟩, fun g slot bitmap hlen => ?_, fun s g r hok => ?_,
    waitSum_overlayEvents⟩
  · rw [waitSum_cmd_text, hlen]
  · rw [State.renderEvents, waitSum_cmd_text, length_xmitBytes_cmd_text, window_length hok]
    exact ⟨rfl, rfl⟩

end Sys2Proof.Machine
end

section
/-! PROOFS. The controller behind the bus (spec 47_display_observer.md R213 to R219, R274, R277): what a strobe does, the handshake with a gap too
short, what INITIALIZE leaves, and what each row of the table below the host's level does when a larger system feeds it. -/

namespace Sys2Proof.Machine

/-! ### One strobe -/

/-- What a strobe that does not complete the handshake makes of `undef` (47_display_observer.md R216, 70_reset_and_hazards.md R277). -/
def strobeUndef (rs : Bool) (n : Nibble) (p : Panel) : Bool := p.lcd.undef || decide (0 < p.time.busy) || handshakeBroken rs n p.time

theorem strobe_since (rs : Bool) (n : Nibble) (p : Panel) : (Panel.strobe rs n p).time.since = 0 := by
  unfold Panel.strobe
  split
  · rfl
  · dsimp only
    split <;> rfl

/-- Out of step the controller's state is not determined (log entry 15). -/
theorem strobe_unknown {rs : Bool} {n : Nibble} {p : Panel} (hd : handshakeDone rs n p.time = false) (h : p.lcd.sync = .unknown) :
    (Panel.strobe rs n p).lcd = { p.lcd with undef := true } := by
  simp only [Panel.strobe, hd, h, Bool.false_eq_true, if_false]

theorem strobe_hi {rs : Bool} {n : Nibble} {p : Panel} (hd : handshakeDone rs n p.time = false) (h : p.lcd.sync = .sync4)
    (hp : p.lcd.phase = .hi) : (Panel.strobe rs n p).lcd = { p.lcd with hi := n, phase := .lo, undef := strobeUndef rs n p } := by
  simp only [Panel.strobe, strobeUndef, hd, h, hp, Bool.false_eq_true, if_false]

theorem strobe_lo {rs : Bool} {n : Nibble} {p : Panel} (hd : handshakeDone rs n p.time = false) (h : p.lcd.sync = .sync4)
    (hp : p.lcd.phase = .lo) :
    (Panel.strobe rs n p).lcd =
      Lcd.execByte rs (joinNibbles p.lcd.hi n) { p.lcd with phase := .hi, undef := strobeUndef rs n p } := by
  simp only [Panel.strobe, strobeUndef, Panel.execByte, hd, h, hp, Bool.false_eq_true, if_false]

/-- No byte determines the state again. -/
theorem execByte_undef (rs : Bool) (v : Byte) {l : Lcd} (h : l.undef = true) : (Lcd.execByte rs v l).undef = true := by
  unfold Lcd.execByte
  split
  · unfold Lcd.data
    split <;> exact h
  · unfold Lcd.command
    repeat' split
    all_goals
      simp [Lcd.setDdram, Lcd.setCgram, Lcd.functionSet, Lcd.cursorShift, Lcd.displayControl, Lcd.entryMode, Lcd.home, Lcd.clear, h]

theorem strobe_undef {rs : Bool} {n : Nibble} {p : Panel} (hd : handshakeDone rs n p.time = false)
    (h : p.lcd.undef = true ∨ handshakeBroken rs n p.time = true) : (Panel.strobe rs n p).lcd.undef = true := by
  have hundef : strobeUndef rs n p = true := by
    rcases h with h | h <;> simp [strobeUndef, h]
  cases hsync : p.lcd.sync with
  | unknown => rw [strobe_unknown hd hsync]
  | sync4 =>
    cases hphase : p.lcd.phase with
    | hi => rw [strobe_hi hd hsync hphase, hundef]
    | lo => rw [strobe_lo hd hsync hphase, hundef]; exact execByte_undef rs _ rfl

/-! ### The handshake with a gap too short (70_reset_and_hazards.md R277) -/

/-- The settle of a nibble write, a wait and the strobe of the next one. -/
abbrev Panel.spaced (w : Nat) (p : Panel) : Panel := ((p.elapse 100).elapse w).settled 1

/-- Too soon after a nibble 0x3, the next one begins to count anew. -/
theorem nextHs_early {t : LcdTime} (h : t.since < 4100) : nextHs false 3 t = 1 := by
  simp [nextHs, h]

theorem nextHs_le (t : LcdTime) : nextHs false 3 t ≤ t.hs + 1 := by
  simp only [nextHs, Bool.false_or, bne_self_eq_false, Bool.false_eq_true, if_false]
  split
  · omega
  · split
    · omega
    · exact Nat.min_le_right _ _

theorem handshakeDone_three (t : LcdTime) : handshakeDone false 3 t = false := by simp [handshakeDone]

/-- The third nibble of the handshake comes too soon after the second, or the second after the first. -/
theorem strobe_three_undef {p : Panel} (h : p.lcd.undef = true ∨ (1 ≤ p.time.hs ∧ p.time.since < 4100)) :
    (Panel.strobe false 3 p).lcd.undef = true :=
  strobe_undef (handshakeDone_three _) (h.imp_right fun ⟨hhs, hsince⟩ => by simp [handshakeBroken, hhs, hsince])

/-- The last nibble of the handshake does not complete it, and the state was undetermined before or is so now. -/
theorem strobe_two_undef {p : Panel} (hd : p.time.hs < 3 ∨ p.time.since < 150)
    (h : p.lcd.undef = true ∨ (3 ≤ p.time.hs ∧ p.time.since < 150)) : (Panel.strobe false 2 p).lcd.undef = true := by
  refine strobe_undef ?_ (h.imp_right fun ⟨hhs, hsince⟩ => by simp [handshakeBroken, hhs, hsince])
  simp only [handshakeDone, Config.tInit3Min, Bool.and_eq_false_iff, decide_eq_false_iff_not, not_le]
  exact hd.elim (fun hhs => .inl (.inr hhs)) .inr

/-- Right after a nibble 0x3 of the handshake. -/
structure Panel.Shaking (p : Panel) : Prop where
  since : p.time.since = 0
  hs : 1 ≤ p.time.hs

/-- The controller counts fewer than `k` nibbles 0x3, and its state is undetermined: a gap was too short. -/
structure Panel.OffTrack (k : Nat) (p : Panel) : Prop extends p.Shaking where
  undef : p.lcd.undef = true
  behind : p.time.hs < k

theorem shaking_strobe (p : Panel) : (Panel.strobe false 3 p).Shaking := by
  obtain ⟨hsince, hhs⟩ := strobe_time 3 p (by decide)
  exact ⟨hsince, hhs ▸ nextHs_pos _⟩

theorem spaced_since {p : Panel} (h : p.Shaking) (w : Nat) : (p.spaced w).time.since = 100 + w + 1 := by
  simp [Panel.spaced, Panel.settled, Panel.elapse, h.since]

theorem offTrack_early {p : Panel} (h : p.Shaking) {w : Nat} (hw : 100 + w + 1 < 4100) :
    (Panel.strobe false 3 (p.spaced w)).OffTrack 2 := by
  have hsince : (p.spaced w).time.since < 4100 := by rwa [spaced_since h]
  obtain ⟨-, hhs⟩ := strobe_time 3 (p.spaced w) (by decide)
  exact ⟨shaking_strobe _, strobe_three_undef (.inr ⟨h.hs, hsince⟩), by rw [hhs, nextHs_early hsince]; decide⟩

/-- A gap that was too short is not made good by another nibble 0x3. -/
theorem offTrack_next {k : Nat} {p : Panel} (h : p.OffTrack k) (w : Nat) : (Panel.strobe false 3 (p.spaced w)).OffTrack (k + 1) := by
  obtain ⟨-, hhs⟩ := strobe_time 3 (p.spaced w) (by decide)
  exact ⟨shaking_strobe _, strobe_three_undef (.inl h.undef), hhs ▸ Nat.lt_of_le_of_lt (nextHs_le _) (Nat.add_lt_add_right h.behind 1)⟩

/-- A nibble 0x3 after its gap is counted. -/
theorem strobe_three_counts {k : Nat} {p : Panel} (h : p.Shaking) (hk : 1 ≤ k) (hhs : k ≤ p.time.hs) {w : Nat} (hw : 4100 ≤ 100 + w + 1) :
    min 3 (k + 1) ≤ (Panel.strobe false 3 (p.spaced w)).time.hs := by
  obtain ⟨-, hnext⟩ := strobe_time 3 (p.spaced w) (by decide)
  rw [hnext]
  exact nextHs_grows _ k hhs hk (by rwa [spaced_since h])

theorem offTrack_last {p : Panel} (h : p.OffTrack 3) (w : Nat) : (Panel.strobe false 2 (p.spaced w)).lcd.undef = true :=
  strobe_two_undef (.inl h.behind) (.inl h.undef)

theorem handshake_tooSoon (p : Panel) (w0 w1 w2 : Nat) (h : 100 + w0 + 1 < 4100 ∨ 100 + w1 + 1 < 4100 ∨ 100 + w2 + 1 < 150) :
    (p.replay (nibbleEvents true false 0x3 ++ [.wait w0] ++ nibbleEvents true false 0x3 ++ [.wait w1]
        ++ nibbleEvents true false 0x3 ++ [.wait w2] ++ nibbleEvents true false 0x2)).lcd.undef = true := by
  have hwait : ∀ t (p : Panel), p.observe (.wait t) = p.elapse t := fun _ _ => rfl
  simp only [replay_append, replay_cons, replay_nil, hwait, replay_nibble]
  have hfirst := shaking_strobe (p.settled 1)
  generalize Panel.strobe false 3 (p.settled 1) = p1 at hfirst
  have hsecond := shaking_strobe (p1.spaced w0)
  by_cases h0 : 100 + w0 + 1 < 4100
  · exact offTrack_last (offTrack_next (offTrack_early hfirst h0) w1) w2
  by_cases h1 : 100 + w1 + 1 < 4100
  · have hthird := offTrack_early hsecond h1
    exact offTrack_last { hthird with behind := Nat.lt_succ_of_lt hthird.behind } w2
  · have h2 : 100 + w2 + 1 < 150 := (h.resolve_left h0).resolve_left h1
    have hcount : 3 ≤ (Panel.strobe false 3 ((Panel.strobe false 3 (p1.spaced w0)).spaced w1)).time.hs :=
      strobe_three_counts hsecond (by decide) (strobe_three_counts hfirst (le_refl 1) hfirst.hs (by omega)) (by omega)
    have hsince : (((Panel.strobe false 3 ((Panel.strobe false 3 (p1.spaced w0)).spaced w1)).spaced w2)).time.since < 150 := by
      rwa [spaced_since (shaking_strobe _)]
    exact strobe_two_undef (.inr hsince) (.inr ⟨hcount, hsince⟩)

/-- Settles O19: with its gaps the handshake is recognised from any state, and a gap too short leaves `undef` set to its end. -/
theorem handshakeWorksFromAnyController : Obligations.HandshakeWorksFromAnyController := by
  rintro p w0 w1 w2 q rfl
  refine ⟨fun h0 h1 h2 => ?_, handshake_tooSoon p w0 w1 w2⟩
  obtain ⟨l, hq, -⟩ := handshake_replay p w0 w1 w2 h0 h1 h2
  rw [hq]
  exact ⟨rfl, rfl, rfl, rfl⟩

/-! ### What INITIALIZE leaves (70_reset_and_hazards.md R274) -/

theorem visible_of_blank {l : Lcd} (hm : l.ddram = []) (hs : l.shift = 0) (r : RowIx) : l.visible r = List.replicate 16 0x20 := by
  refine visible_eq l r _ hs rfl fun i hi => ?_
  rw [hm, List.getElem?_replicate, if_pos hi]
  rfl

theorem picture_of_visible {l : Lcd} (hundef : l.undef = false) (hsync : l.sync = .sync4) (hd : l.d = true) :
    l.picture true = .rows (l.visible .row0) (l.visible .row1) := by
  simp [Lcd.picture, hundef, hsync, hd]

/-- Settles O20: the fields are those INITIALIZE writes, the last byte it sends has E low, and its events leave any controller so. -/
theorem initializeDeterminesTheController : Obligations.InitializeDeterminesTheController := by
  intro s h hi
  obtain ⟨t, ht, hemits⟩ := exec_opInitialize_emits h hi
  obtain ⟨hsync, hup, hddram, hac, htgt, hundef, hd, hc, hb⟩ := init_replay s.bus.panel
  have hpanel : t.bus.panel = s.bus.panel.replay initEvents := hemits.bus.panel
  rw [← hpanel] at hsync hup hddram hac htgt hundef hd hc hb
  have hpar : t.bus.par = 0x0C := hemits.bus.par
  have hblank := visible_of_blank hddram hup.shift
  have hpicture := picture_of_visible hundef hsync.sync hd
  rw [hblank, hblank] at hpicture
  refine ⟨t, ht, ?_⟩
  rw [hemits.frame]
  exact ⟨rfl, rfl, rfl, rfl, rfl, rfl, by rw [hpar]; rfl, rfl, rfl, rfl, rfl, fun a => by rw [hddram]; rfl, hac, htgt,
    hundef, hd, hc, hb, hsync, hup, hpicture⟩

end Sys2Proof.Machine
end

section
/-! PROOFS. The rows of the table below the host's level, as a larger system feeds them (spec 30_encoding.md R75, R91, 47_display_observer.md
R213 to R222): a controller byte at a byte boundary is one execution of it, and what each execution does is an equation for each command form. -/

namespace Sys2Proof.Machine

/-! ### What a command byte does (47_display_observer.md R217) -/

@[simp] theorem command_clearByte (l : Lcd) : l.command clearByte = l.clear := rfl

@[simp] theorem command_homeByte (x : Bool) (l : Lcd) : l.command (homeByte ||| bitAt x 0) = l.home := by cases x <;> rfl

@[simp] theorem command_entByte (i s : Bool) (l : Lcd) : l.command (entByte i s) = l.entryMode i s := by cases i <;> cases s <;> rfl

@[simp] theorem command_ctlByte (d c b : Bool) (l : Lcd) : l.command (ctlByte d c b) = l.displayControl d c b := by
  cases d <;> cases c <;> cases b <;> rfl

@[simp] theorem command_shiftByte (sc rl : Bool) (x : BitVec 2) (l : Lcd) :
    l.command (0x10 ||| bitAt sc 3 ||| bitAt rl 2 ||| x.setWidth 8) = l.cursorShift := by
  simp [Lcd.command]

@[simp] theorem command_fnByte (dl n f : Bool) (x : BitVec 2) (l : Lcd) :
    l.command (fnByte dl n f ||| x.setWidth 8) = l.functionSet dl n f := by
  simp [Lcd.command, fnByte]

@[simp] theorem command_cgramByte (a : BitVec 6) (l : Lcd) : l.command (0x40 ||| a.setWidth 8) = l.setCgram a := by
  have ha : (0x40#8 ||| a.setWidth 8).setWidth 6 = a := by revert a; decide
  simp [Lcd.command, ha]

@[simp] theorem command_ddramByte (a : BitVec 7) (l : Lcd) : l.command (0x80 ||| a.setWidth 8) = l.setDdram a := by
  have ha : (0x80#8 ||| a.setWidth 8).setWidth 7 = a := by revert a; decide
  simp [Lcd.command, ha]

/-- Only clear and home take longer than every other byte (47_display_observer.md R216). -/
theorem execTime_of_four_le {v : Byte} (h : 4 ≤ v.toNat) : execTime false v = 37 := by
  have hne : ∀ w : Byte, w.toNat < 4 → (v == w) = false := fun w hw => beq_eq_false_iff_ne.mpr fun hv => by subst hv; omega
  rw [execTime, hne 0x01 (by decide), hne 0x02 (by decide), hne 0x03 (by decide)]
  rfl

/-! ### A byte at a byte boundary -/

/-- A byte that finds the controller at a byte boundary is one execution of it, undetermined where it came too soon. -/
theorem feedByte_boundary {s : State} (h : s.bus.panel.AtBoundary) (rs : Bool) (v : Byte) :
    feedByte rs v s = .next (s.byteTaken rs v (execTime rs v) (Lcd.execByte rs v
      { s.bus.panel.lcd with
        undef := s.bus.panel.lcd.undef || decide (1 < s.bus.panel.time.busy) || brokenByte rs v s.bus.panel.time })) := by
  rw [feedByte, feed_eq, replay_byte _ _ _ h]
  rw [execByte_pending rs v { s.bus.panel.lcd with
        undef := s.bus.panel.lcd.undef || decide (1 < s.bus.panel.time.busy) || brokenByte rs v s.bus.panel.time } (hiNibble v)]
  rfl

theorem brokenByte_of_hiNibble {rs : Bool} {v : Byte} (h : rs = true ∨ hiNibble v ≠ 0x3) (t : LcdTime) : brokenByte rs v t = false := by
  rcases h with rfl | h
  · rfl
  · rw [brokenByte, beq_eq_false_iff_ne.mpr h, Bool.and_false, Bool.false_and]

/-- A byte that does not begin with a handshake nibble only has to wait for the last one (47_display_observer.md R216). -/
theorem feedByte_boundary_of_hiNibble {s : State} {rs : Bool} {v : Byte} (h : s.bus.panel.AtBoundary) (hv : rs = true ∨ hiNibble v ≠ 0x3) :
    feedByte rs v s = .next (s.byteTaken rs v (execTime rs v) (Lcd.execByte rs v
      { s.bus.panel.lcd with undef := s.bus.panel.lcd.undef || decide (1 < s.bus.panel.time.busy) })) := by
  rw [feedByte_boundary h, brokenByte_of_hiNibble hv, Bool.or_false]

/-- Only a function set with DL = 1 begins with a handshake nibble, and its second nibble is one too where N = F = 0 and the low bits are 3. -/
theorem brokenByte_fnByte (dl n f : Bool) (x : BitVec 2) (t : LcdTime) :
    brokenByte false (fnByte dl n f ||| x.setWidth 8) t =
      (dl && (decide (1 ≤ t.hs ∧ t.since + 1 < 4100) || (!n && !f && x == 0x3))) := by
  have hhi : (hiNibble (fnByte dl n f ||| x.setWidth 8) == 0x3) = dl := by revert dl n f x; decide
  have hlo : (loNibble (fnByte dl n f ||| x.setWidth 8) == 0x3) = (!n && !f && x == 0x3) := by revert dl n f x; decide
  rw [brokenByte, hhi, hlo, Bool.not_false, Bool.true_and, Bool.decide_and]

theorem boolByte_injective : Function.Injective boolByte := by
  intro a b
  revert a b
  decide

/-- A row of the table's second level feeds the byte it encodes to (30_encoding.md R76, R91). -/
theorem exec_ctl {i : Instr} {rs : Bool} {v : Byte} (hp : i.port = .ctl) (h : encode i = [v, boolByte rs]) (s : State) :
    exec i s = feedByte rs v s := by
  cases i <;> simp [Instr.port] at hp
  case dataWrite d =>
    obtain ⟨rfl, hrs⟩ := List.cons.inj h
    obtain rfl : true = rs := boolByte_injective (List.singleton_inj.mp hrs)
    rfl
  all_goals
    obtain ⟨rfl, hrs⟩ := List.cons.inj h
    obtain rfl : false = rs := boolByte_injective (List.singleton_inj.mp hrs)
    rfl

/-- A command row at a byte boundary executes its byte. -/
theorem exec_command_boundary {i : Instr} {s : State} {v : Byte} (h : s.bus.panel.AtBoundary) (hp : i.port = .ctl)
    (hencode : encode i = [v, 0]) (hv : hiNibble v ≠ 0x3) :
    exec i s = .next (s.byteTaken false v (execTime false v)
      (Lcd.command v { s.bus.panel.lcd with undef := s.bus.panel.lcd.undef || decide (1 < s.bus.panel.time.busy) })) := by
  rw [exec_ctl (rs := false) hp hencode, feedByte_boundary_of_hiNibble h (.inr hv)]
  rfl

/-- A command that is neither clear nor home and does not begin with a handshake nibble. -/
abbrev PlainCommand (v : Byte) : Prop := hiNibble v ≠ 0x3 ∧ 4 ≤ v.toNat

theorem plainCommand_entByte (i s : Bool) : PlainCommand (entByte i s) := by revert i s; decide

theorem plainCommand_ctlByte (d c b : Bool) : PlainCommand (ctlByte d c b) := by revert d c b; decide

theorem plainCommand_shiftByte (sc rl : Bool) (x : BitVec 2) : PlainCommand (0x10 ||| bitAt sc 3 ||| bitAt rl 2 ||| x.setWidth 8) := by
  revert sc rl x
  decide

theorem plainCommand_cgramByte (a : BitVec 6) : PlainCommand (0x40 ||| a.setWidth 8) := by revert a; decide

theorem plainCommand_ddramByte (a : BitVec 7) : PlainCommand (0x80 ||| a.setWidth 8) := by revert a; decide

theorem exec_plainCommand {i : Instr} {s : State} {v : Byte} (h : s.bus.panel.AtBoundary) (hp : i.port = .ctl)
    (hencode : encode i = [v, 0]) (hv : PlainCommand v) :
    exec i s = .next (s.byteTaken false v 37
      (Lcd.command v { s.bus.panel.lcd with undef := s.bus.panel.lcd.undef || decide (1 < s.bus.panel.time.busy) })) := by
  obtain ⟨hhi, hlong⟩ := hv
  rw [exec_command_boundary h hp hencode hhi, execTime_of_four_le hlong]

theorem four_le_fnByte (dl n f : Bool) (x : BitVec 2) : 4 ≤ (fnByte dl n f ||| x.setWidth 8).toNat := by revert dl n f x; decide

theorem hasCell_twoLines {l : Lcd} (h : l.n = true) (a : BitVec 7) :
    l.hasCell a = (decide (a.toNat ≤ 0x27) || decide (0x40 ≤ a.toNat ∧ a.toNat ≤ 0x67)) := by
  simp [Lcd.hasCell, h, Nat.lt_succ_iff]

/-- Settles O52: each row's byte is one execution of its command; only a function set can hold handshake nibbles. -/
theorem controllerCommandEffects : Obligations.ControllerCommandEffects := by
  rintro s l v h rfl
  refine ⟨fun he => ?_, fun x he => ?_, fun i sh he => ?_, fun d c b he => ?_, fun sc rl x he => ?_, fun dl n f x he => ?_, fun a he => ?_,
    fun a he hn => ?_⟩ <;> cases he
  · exact ⟨[], exec_command_boundary h rfl rfl (by decide), fun a => rfl⟩
  · cases x <;> exact exec_command_boundary h rfl rfl (by decide)
  · rw [exec_plainCommand h rfl rfl (plainCommand_entByte i sh), command_entByte, Lcd.entryMode]
  · rw [exec_plainCommand h rfl rfl (plainCommand_ctlByte d c b), command_ctlByte, Lcd.displayControl]
  · rw [exec_plainCommand h rfl rfl (plainCommand_shiftByte sc rl x), command_shiftByte, Lcd.cursorShift]
  · rw [exec_ctl (rs := false) rfl rfl, feedByte_boundary h, brokenByte_fnByte, execTime_of_four_le (four_le_fnByte dl n f x),
      execByte_command, command_fnByte, Lcd.functionSet]
  · rw [exec_plainCommand h rfl rfl (plainCommand_cgramByte a), command_cgramByte, Lcd.setCgram]
  · rw [exec_plainCommand h rfl rfl (plainCommand_ddramByte a), command_ddramByte, Lcd.setDdram, hasCell_twoLines hn]

/-! ### Data bytes (47_display_observer.md R218, R222) -/

theorem data_ddram {l : Lcd} (h : l.tgt = .ddram) (v : Byte) :
    l.data v = { l with ddram := Memory.write Memory.ddramBlank l.ddram l.ac.toNat v, shift := l.nextShift, ac := l.nextAC } := by
  rw [Lcd.data, h]

theorem data_cgram {l : Lcd} (h : l.tgt = .cgram) (v : Byte) :
    l.data v = { l with cgram := Memory.write Memory.cgramBlank l.cgram (l.ac.toNat % 64) (v.setWidth 5), ac := l.nextAC } := by
  rw [Lcd.data, h]

theorem nextAC_ddram_right {l : Lcd} (h : l.tgt = .ddram) (hid : l.id = true) :
    l.nextAC = if l.ac = 0x27 then 0x40 else if l.ac = 0x67 then 0x00 else l.ac + 1 := by
  rw [Lcd.nextAC, h]
  exact if_pos hid

theorem nextAC_ddram_left {l : Lcd} (h : l.tgt = .ddram) (hid : l.id = false) :
    l.nextAC = if l.ac = 0x40 then 0x27 else if l.ac = 0x00 then 0x67 else l.ac - 1 := by
  rw [Lcd.nextAC, h]
  exact if_neg (by simp [hid])

theorem toNat_nextAC_cgram {l : Lcd} (h : l.tgt = .cgram) : l.nextAC.toNat = (l.ac.toNat + if l.id then 1 else 63) % 64 := by
  rw [Lcd.nextAC, h, BitVec.toNat_ofNat]
  omega

/-- Settles O53: the byte is written at `AC` by the laws of memory, and the address counter moves by `nextAC`. -/
theorem dataWriteEffect : Obligations.DataWriteEffect := by
  rintro s l v h ⟨hddram, -, hcgram, -, -⟩ hl
  have hwf : Memory.wf Memory.ddramBlank l.ddram = true := by rw [hl]; exact hddram
  have hwf' : Memory.wf Memory.cgramBlank l.cgram = true := by rw [hl]; exact hcgram
  refine ⟨l.data v, ?_, fun ht => ?_, fun ht hac => ?_⟩
  · rw [exec_ctl (rs := true) rfl rfl, feedByte_boundary_of_hiNibble h (.inl rfl), execTime_data, hl]
    rfl
  · rw [data_ddram ht]
    exact ⟨rfl, fun a => Memory.read_write _ _ a v hwf, rfl, nextAC_ddram_right ht, nextAC_ddram_left ht⟩
  · have hnext := toNat_nextAC_cgram ht
    rw [data_cgram ht, Nat.mod_eq_of_lt hac]
    exact ⟨rfl, fun a => Memory.read_write _ _ a _ hwf', fun hid => by rw [hnext, hid]; rfl, fun hid => by rw [hnext, hid]; rfl⟩

/-! ### A byte and its two nibble writes -/

/-- Settles O54: a row feeds the byte it was read from, which is two nibble writes, and at a byte boundary one execution. -/
theorem rowsRunTheirBytes : Obligations.RowsRunTheirBytes := by
  intro s rs v i hdecode
  obtain ⟨hp, hencode⟩ := encode_of_decodeController hdecode
  rw [exec_ctl hp hencode]
  refine ⟨rfl, fun h hbusy hv => ?_⟩
  have hdone : decide (1 < s.bus.panel.time.busy) = false := decide_eq_false hbusy.not_gt
  rw [feedByte_boundary_of_hiNibble h hv, hdone, Bool.or_false]

/-! ### One handshake nibble -/

/-- A handshake nibble, fed: one strobe and its settle, whatever E was (47_display_observer.md R213). -/
theorem feed_nibble_panel (s : State) (rs : Bool) (n : Nibble) :
    (s.feed (nibbleEvents true rs n)).bus.panel = (Panel.strobe rs n (s.bus.panel.settled 1)).elapse 100 := replay_nibble _ rs n

theorem handshakeDone_iff (n : Nibble) (t : LcdTime) : handshakeDone false n t = true ↔ n = 0x2 ∧ 3 ≤ t.hs ∧ 150 ≤ t.since := by
  simp [handshakeDone, and_assoc]

theorem settled_undef (p : Panel) (t : Nat) : (p.settled t).lcd.undef = p.lcd.undef := rfl
theorem settled_busy (p : Panel) (t : Nat) : (p.settled t).time.busy = p.time.busy - t := rfl
theorem settled_since (p : Panel) (t : Nat) : (p.settled t).time.since = p.time.since + t := rfl
theorem settled_hs (p : Panel) (t : Nat) : (p.settled t).time.hs = p.time.hs := rfl

/-- Where the nibble does not complete the handshake, a count of three means that it came too soon. -/
theorem strobeUndef_settled {n : Nibble} {p : Panel} (h : ¬ (n = 0x2 ∧ 3 ≤ p.time.hs ∧ 150 ≤ p.time.since + 1)) :
    strobeUndef false n (p.settled 1) = (p.lcd.undef
      || decide (1 < p.time.busy ∨ (n = 0x3 ∧ 1 ≤ p.time.hs ∧ p.time.since + 1 < 4100) ∨ (n = 0x2 ∧ 3 ≤ p.time.hs))) := by
  have hbusy : 0 < p.time.busy - 1 ↔ 1 < p.time.busy := Nat.sub_pos_iff_lt
  have hsoon (hn : n = 0x2) (hhs : 3 ≤ p.time.hs) : p.time.since + 1 < 150 := Nat.not_le.mp fun hsince => h ⟨hn, hhs, hsince⟩
  rw [Bool.eq_iff_iff]
  simp only [strobeUndef, handshakeBroken, Bool.or_eq_true, Bool.and_eq_true, beq_iff_eq, Bool.not_false, Bool.true_and, decide_eq_true_eq,
    and_assoc, or_assoc]
  rw [settled_undef, settled_busy, settled_since, settled_hs, hbusy]
  refine or_congr_right (or_congr_right (or_congr_right ?_))
  exact ⟨fun ⟨hn, hhs, _⟩ => ⟨hn, hhs⟩, fun ⟨hn, hhs⟩ => ⟨hn, hhs, hsoon hn hhs⟩⟩

theorem exec_handshakeNibble {i : Instr} {n : Nibble} (h : (i = .handshakeNibble8bit ∧ n = 0x3) ∨ (i = .handshakeNibble4bit ∧ n = 0x2))
    (s : State) : exec i s = .next (s.feed (nibbleEvents true false n)) := by
  obtain ⟨rfl, rfl⟩ | ⟨rfl, rfl⟩ := h <;> rfl

/-- Settles O55: a nibble is one strobe, by the phase the controller is in. -/
theorem handshakeNibblesStrobe : Obligations.HandshakeNibblesStrobe := by
  rintro s p rfl i n bad hi rfl
  have hdone : handshakeDone false n (s.bus.panel.settled 1).time = true ↔
      n = 0x2 ∧ 3 ≤ s.bus.panel.time.hs ∧ 150 ≤ s.bus.panel.time.since + 1 := handshakeDone_iff n _
  refine ⟨_, exec_handshakeNibble hi s, rfl, ?_, fun h => ?_, fun h => ?_⟩
  · rw [feed_nibble_panel, Panel.elapse, strobe_since]
  · obtain rfl := h.1
    rw [feed_nibble_panel, strobe_handshakeDone _ (hdone.mpr h)]
    rfl
  · have hd : handshakeDone false n (s.bus.panel.settled 1).time = false := by
      rw [Bool.eq_false_iff, ne_eq, hdone]
      exact h
    rw [feed_nibble_panel, ← strobeUndef_settled h]
    exact ⟨strobe_unknown hd, strobe_hi hd, strobe_lo hd⟩

end Sys2Proof.Machine
end

section
/-! PROOFS. The Driver and the controller (spec 10_state.md R29, 41_controller_driver.md R122 to R134, 47_display_observer.md R217, R218, R228):
a flag operation sends the group it has changed, and with the gate open the controller's memories and flags follow from the bytes sent. -/

namespace Sys2Proof.Machine

/-! ### The flag groups -/

/-- The operations that write one flag of `ctl`, INITIALIZE apart (41_controller_driver.md R126 to R130). -/
def ctlOps : List Instr := [.displayOn, .displayOff, .setCursorVisible 0, .setCursorVisible 1, .blinkOn, .blinkOff]

/-- The operations that write one flag of `ent`, INITIALIZE apart (41_controller_driver.md R131, R132). -/
def entOps : List Instr := [.setScrollDirection 0, .setScrollDirection 1, .setAutoscroll 0, .setAutoscroll 1]

theorem forall_mem_ctlOps {P : Instr → Prop} (hdisplay : P .displayOn ∧ P .displayOff)
    (hcursor : ∀ v, P (.setCursorVisible v)) (hblink : P .blinkOn ∧ P .blinkOff) : ∀ i ∈ ctlOps, P i := by
  simp [ctlOps, hdisplay, hcursor, hblink]

theorem forall_mem_entOps {P : Instr → Prop} (hdir : ∀ v, P (.setScrollDirection v)) (hauto : ∀ v, P (.setAutoscroll v)) :
    ∀ i ∈ entOps, P i := by
  simp [entOps, hdir, hauto]

theorem ctlOps_run (s : State) : ∀ i ∈ ctlOps, i.port = .host ∧ i ≠ .opInitialize ∧ timesPass i s :=
  forall_mem_ctlOps ⟨⟨rfl, nofun, trivial⟩, rfl, nofun, trivial⟩ (fun _ => ⟨rfl, nofun, trivial⟩)
    ⟨⟨rfl, nofun, trivial⟩, rfl, nofun, trivial⟩

theorem entOps_run (s : State) : ∀ i ∈ entOps, i.port = .host ∧ i ≠ .opInitialize ∧ timesPass i s :=
  forall_mem_entOps (fun _ => ⟨rfl, nofun, trivial⟩) (fun _ => ⟨rfl, nofun, trivial⟩)

/-- A control flag operation sends all three flags as it leaves them (10_state.md R29). -/
theorem hostEvents_ctlOps (g : Bool) (s : State) : ∀ i ∈ ctlOps, hostEvents g i s = cmdEvents g (hostFields i s).ctl.byte :=
  forall_mem_ctlOps ⟨rfl, rfl⟩ (fun _ => rfl) ⟨rfl, rfl⟩

/-- An entry-mode flag operation sends both flags as it leaves them (10_state.md R29). -/
theorem hostEvents_entOps (g : Bool) (s : State) : ∀ i ∈ entOps, hostEvents g i s = cmdEvents g (hostFields i s).ent.byte :=
  forall_mem_entOps (fun _ => rfl) (fun _ => rfl)

theorem mem_ctlOps_of_change {i : Instr} {s : State} (hw : i.wf = true) (hn : i ≠ .opInitialize) (h : (hostFields i s).ctl ≠ s.ctl) :
    i ∈ ctlOps := (List.mem_cons.mp (hostFields_ctl_writers hw h)).resolve_left hn

theorem mem_entOps_of_change {i : Instr} {s : State} (hw : i.wf = true) (hn : i ≠ .opInitialize) (h : (hostFields i s).ent ≠ s.ent) :
    i ∈ entOps := (List.mem_cons.mp (hostFields_ent_writers hw h)).resolve_left hn

/-- Settles O28: only a host operation that ran writes a flag, and its events are those of the group it has written. -/
theorem aFlagChangeSendsItsGroup : Obligations.AFlagChangeSendsItsGroup := by
  intro i s t h hn
  cases exec_did h with
  | called _ _ hw _ _ ht =>
    have hgate : hostGate i s = s.env.oe := if_neg hn
    obtain ⟨-, hbus, -, -⟩ := hostFields_keeps i s
    rw [hgate] at ht
    rw [ht, State.emit_ctl, State.emit_ent, State.emit_bus, play_trace, hbus]
    refine ⟨fun hctl => ?_, fun hent => ?_⟩
    · rw [hostEvents_ctlOps _ s i (mem_ctlOps_of_change hw hn hctl)]
      rfl
    · rw [hostEvents_entOps _ s i (mem_entOps_of_change hw hn hent)]
      rfl
  | marked c op ht => rw [ht]; exact ⟨absurd rfl, absurd rfl⟩
  | issued _ op k g _ ht =>
    obtain ⟨r0, r1, hrows⟩ := seqFields_rows i s
    rw [ht, hrows]
    exact ⟨absurd rfl, absurd rfl⟩
  | fed _ _ evs ht => rw [ht]; exact ⟨absurd rfl, absurd rfl⟩

/-! ### The controller after the bytes of an operation -/

/-- In a ready state and with the gate open, the controller is where an operation's events bring it. -/
theorem exec_open {i : Instr} {s t : State} (he : exec i s = .next t) (hp : i.port = .host) (hn : i ≠ .opInitialize) (hw : i.wf = true)
    (htimes : timesPass i s)
    (h : s.ready) (hoe : s.env.oe = true) :
    t = (hostFields i s).emit (hostEvents true i s) ∧ t.bus.panel = s.bus.panel.replay (hostEvents true i s) := by
  obtain ⟨-, hbus, -, -⟩ := hostFields_keeps i s
  rw [exec_host_ready hp hn hw htimes h, hoe] at he
  cases he
  exact ⟨rfl, by rw [State.emit_bus, play_panel, hbus]⟩

theorem quickCommand_lcd {p : Panel} (h : p.Synced) {v : Byte} (hv : QuickCommand v) :
    (p.replay (cmdEvents true v)).lcd = Lcd.command v { p.lcd with e := false, hi := hiNibble v } := by
  obtain ⟨hblock, hclear, hhome⟩ := hv
  have htime : execTime false v ≤ 101 := by
    rw [execTime_blockCommand v hblock, if_neg (not_or.mpr ⟨hclear, hhome⟩)]
    decide
  exact (receptive_send (synced_receptive h) false v htime (.inr (hiNibble_blockCommand v hblock))).2

theorem clear_lcd {p : Panel} (h : p.Synced) :
    (p.replay (cmdSlowEvents true clearByte)).lcd = Lcd.clear { p.lcd with e := false, hi := hiNibble clearByte } :=
  (receptive_cmdSlow p (synced_receptive h) clearByte (by decide) (by decide)).2.2

theorem home_lcd {p : Panel} (h : p.Synced) :
    (p.replay (cmdSlowEvents true homeByte)).lcd = Lcd.home { p.lcd with e := false, hi := hiNibble homeByte } :=
  (receptive_cmdSlow p (synced_receptive h) homeByte (by decide) (by decide)).2.2

theorem data_lcd {p : Panel} (h : p.Synced) (v : Byte) :
    (p.replay (dataEvents true v)).lcd = Lcd.data v { p.lcd with e := false, hi := hiNibble v } :=
  (receptive_send (synced_receptive h) true v (by rw [execTime_data]; decide) (.inl rfl)).2

theorem command_ddaByte (a : Nat) (l : Lcd) : l.command (ddaByte a) = l.setDdram ((ddaByte a).setWidth 7) :=
  if_pos (by simp [ddaByte])

/-- Settles O29: each operation sends one byte, and the memories are those after that byte. -/
theorem driverOpsOnTheControllerMemory : Obligations.DriverOpsOnTheControllerMemory := by
  intro i s t h hoe hw hsync hok he
  obtain ⟨hwf, -, -, -, -⟩ := hok
  refine ⟨fun hi => ?_, fun hi => ?_, fun hi => ?_, ?_, ?_⟩
  · obtain ⟨hp, hn, htimes⟩ := ctlOps_run s i hi
    obtain ⟨ht, hpanel⟩ := exec_open he hp hn hw htimes h hoe
    rw [hpanel, hostEvents_ctlOps true s i hi, Ctl.byte, quickCommand_lcd hsync (quickCommand_ctlByte _ _ _), command_ctlByte, ht]
    exact ⟨rfl, rfl, rfl, rfl, rfl⟩
  · obtain ⟨hp, hn, htimes⟩ := entOps_run s i hi
    obtain ⟨ht, hpanel⟩ := exec_open he hp hn hw htimes h hoe
    rw [hpanel, hostEvents_entOps true s i hi, Ent.byte, quickCommand_lcd hsync (quickCommand_entByte _ _), command_entByte, ht]
    exact ⟨rfl, rfl, rfl, rfl⟩
  · obtain rfl | ⟨c, r, rfl⟩ := hi
    · obtain ⟨-, hpanel⟩ := exec_open he rfl nofun hw trivial h hoe
      rw [hpanel, hostEvents, home_lcd hsync]
      exact ⟨rfl, rfl⟩
    · obtain ⟨-, hpanel⟩ := exec_open he rfl nofun hw trivial h hoe
      rw [hpanel, hostEvents, quickCommand_lcd hsync (blockCommand_dda _), command_ddaByte]
      exact ⟨rfl, rfl⟩
  · rintro rfl
    obtain ⟨-, hpanel⟩ := exec_open he rfl nofun hw trivial h hoe
    rw [hpanel, hostEvents, clear_lcd hsync]
    exact ⟨fun a => rfl, rfl⟩
  · rintro b rfl htgt
    obtain ⟨-, hpanel⟩ := exec_open he rfl nofun hw trivial h hoe
    rw [hpanel, hostEvents, data_lcd hsync, data_ddram (l := { s.bus.panel.lcd with e := false, hi := hiNibble (BitVec.ofNat 8 b) }) htgt]
    exact ⟨fun a => Memory.read_write _ _ a _ hwf, rfl⟩

/-! ### DEFINE_GLYPH -/

theorem command_cgaByte {k : Nat} (hk : k ≤ 7) (l : Lcd) : l.command (cgaByte k) = { l with ac := BitVec.ofNat 7 (8 * k), tgt := .cgram } := by
  interval_cases k <;> rfl

/-- The low five bits of a byte's number (20_memory.md R52). -/
theorem setWidth_bitmap (bitmap : List Nat) (j : Nat) :
    (((bitmap.map (BitVec.ofNat 8))[j]?.getD 0).setWidth 5 : BitVec 5) = BitVec.ofNat 5 (bitmap[j]?.getD 0) := by
  rw [List.getElem?_map]
  cases bitmap[j]? with
  | none => rfl
  | some n => exact BitVec.setWidth_ofNat_of_le (by decide) n

/-- Settles O30: the address command puts `AC` on the slot's first row, and the eight bytes fill the rows from there on. -/
theorem defineGlyphFillsItsSlot : Obligations.DefineGlyphFillsItsSlot := by
  intro s t slot bitmap h hoe hslot hlen hbytes hsync hok hid he
  obtain ⟨-, -, hwf, -, -⟩ := hok
  have hw : (Instr.defineGlyph slot bitmap).wf = true := by simpa [Instr.wf, Bitmap.wf, hslot, hlen] using hbytes
  obtain ⟨-, hpanel⟩ := exec_open he rfl nofun hw trivial h hoe
  have hk : clampSlot slot ≤ 7 := Nat.min_le_right slot 7
  rw [hostEvents, replay_append] at hpanel
  have hready := synced_receptive (synced_quick hsync (quickCommand_cgaByte (clampSlot slot)))
  have hlcd := quickCommand_lcd hsync (quickCommand_cgaByte (clampSlot slot))
  rw [command_cgaByte hk] at hlcd
  generalize s.bus.panel.replay (cmdEvents true (cgaByte (clampSlot slot))) = p at hpanel hready hlcd
  have hac : p.lcd.ac.toNat = 8 * min slot 7 := by
    rw [hlcd]
    exact Nat.mod_eq_of_lt (by omega)
  obtain ⟨q, hq, htgt, hddram, hread⟩ := text_cgram (bitmap.map (BitVec.ofNat 8)) p hready (by rw [hlcd]; exact hid) (by rw [hlcd])
    (by rw [hac, List.length_map, hlen]; omega) (by omega) (by rw [hlcd]; exact hwf)
  rw [hpanel, ← hq]
  refine ⟨fun a => ?_, by rw [hddram, hlcd], htgt⟩
  rw [hread, hac, List.length_map, hlen, setWidth_bitmap, hlcd]

end Sys2Proof.Machine
end

section
/-! PROOFS. The Scheduler and its display (spec 42_scheduler.md R162 to R179, 47_display_observer.md R226, R227): what each row shows after
a render, an overlay and an expiry; overlays and idle ticks; and repeated steps. -/

namespace Sys2Proof.Machine

/-! ### Rows on the display -/

/-- With the layout INITIALIZE sets, a row's offset is the address of its first cell (10_state.md R26, 47_display_observer.md R220). -/
theorem rowOffset_toNat {s : State} (h : s.Inv) (hi : s.init = true) (r : RowIx) :
    (s.rowOffsets.at (rowNumber r)).toNat = rowBase r := by
  obtain ⟨hoffsets, -, -⟩ := h.layout.2 hi
  rw [hoffsets]
  cases r <;> rfl

/-- Settles O33: the render is the row's address and the sixteen bytes of its window, written from there on. -/
theorem renderShowsTheWindow : Obligations.RenderShowsTheWindow := by
  intro s t op k r hin hinv hi hsync hup he
  have hwf := hinv.panel.1
  have hlen := window_length (inv_row hinv r)
  obtain ⟨q, hq, hready, hid, hs, hshift, hcgram, hundef, hn, -, hbusy, hread⟩ :=
    row_replay r (s.row r).window hlen.le s.bus.panel (synced_receptive hsync) hsync.lines hup.id hup.s hwf
  have hpanel : t.bus.panel = q := by
    rw [exec_seq_inside rfl hin] at he
    rw [← Host.Outcome.next.inj he, State.emit_bus, play_panel, hq, ← rowOffset_toNat hinv hi r]
    exact congrArg s.bus.panel.replay (renderEvents_eq s true r)
  have hshift0 : q.lcd.shift = 0 := hshift.trans hup.shift
  rw [hpanel]
  refine ⟨visible_eq _ r _ hshift0 hlen fun i hi => ?_, fun a ha => ?_, hcgram, hundef, ⟨hready.sync, hready.phase, hn, hbusy, hready.hs⟩,
    ⟨hid, hs, hshift0⟩⟩
  · rw [hread, if_pos (by omega), Nat.add_sub_cancel_left]
  · rw [hread, hlen, if_neg ha]

/-- What clear and then both rows leave on the display, in terms of the block's state (42_scheduler.md R167, R170). -/
theorem clear_rows_display {s : State} (hinv : s.Inv) (hi : s.init = true) (hsync : s.bus.panel.Synced) (hs : s.bus.panel.lcd.s = false)
    {t0 t1 : List Byte} (h0 : t0.length ≤ 16) (h1 : t1.length ≤ 16) {q : Panel}
    (hq : q = s.bus.panel.replay (cmdSlowEvents true clearByte
      ++ (cmdEvents true (ddaByte s.rowOffsets.o0.toNat) ++ textEvents true t0)
      ++ (cmdEvents true (ddaByte s.rowOffsets.o1.toNat) ++ textEvents true t1))) :
    q.Synced ∧ q.Upright ∧ q.lcd.cgram = s.bus.panel.lcd.cgram ∧ q.lcd.undef = s.bus.panel.lcd.undef
      ∧ q.lcd.visible .row0 = t0 ++ List.replicate (16 - t0.length) 0x20
      ∧ q.lcd.visible .row1 = t1 ++ List.replicate (16 - t1.length) 0x20 := by
  have ho0 : s.rowOffsets.o0.toNat = rowBase .row0 := rowOffset_toNat hinv hi .row0
  have ho1 : s.rowOffsets.o1.toNat = rowBase .row1 := rowOffset_toNat hinv hi .row1
  rw [ho0, ho1] at hq
  obtain ⟨q', hq', hdisplay⟩ := clear_rows_replay s.bus.panel hsync hs t0 t1 h0 h1
  rw [hq, ← hq']
  exact hdisplay

/-- A host operation that was not refused ran. -/
theorem exec_ran {i : Instr} {s t : State} (he : exec i s = .next t) (ht : t.refused = false) (hp : i.port = .host) (hn : i ≠ .opInitialize) :
    t = (hostFields i s).emit (hostEvents s.env.oe i s) ∧ t.bus.panel = s.bus.panel.replay (hostEvents s.env.oe i s) := by
  have hgate : hostGate i s = s.env.oe := if_neg hn
  obtain ⟨-, hbus, -, -⟩ := hostFields_keeps i s
  obtain ⟨-, ⟨c, rfl⟩ | ⟨-, -, -, -, hran⟩⟩ := exec_host_next hp he
  · cases ht
  · rw [hgate] at hran
    exact ⟨hran, by rw [hran, State.emit_bus, play_panel, hbus]⟩

/-- Settles O39: an overlay clears and then writes each text, cut to 16 bytes, from its row's first cell on. -/
theorem overlayShowsItsTexts : Obligations.OverlayShowsItsTexts := by
  intro s t t0 t1 dur h hinv hoe hsync hs he ht
  have hcut (u : Text) : (u.take 16).length ≤ 16 ∧ 16 - (u.take 16).length = 16 - u.length := by
    rw [List.length_take]
    omega
  obtain ⟨-, hpanel⟩ := exec_ran he ht rfl nofun
  rw [hoe] at hpanel
  obtain ⟨hsync', hup, hcgram, hundef, hrow0, hrow1⟩ := clear_rows_display hinv h.2.2 hsync hs (hcut t0).1 (hcut t1).1 hpanel
  rw [(hcut t0).2] at hrow0
  rw [(hcut t1).2] at hrow1
  exact ⟨hrow0, hrow1, hcgram, hundef, hsync', hup⟩

theorem hostFields_tick_expired {s : State} {now : Nat} (ha : s.ov.active = true) (hdue : s.ov.expiry ≤ now) :
    hostFields (.tick now) s = (s.setClk now).setOv { s.ov with active := false } := by
  rw [hostFields, if_pos ha, if_pos hdue]

theorem hostEvents_tick_expired {s : State} {now : Nat} (ha : s.ov.active = true) (hdue : s.ov.expiry ≤ now) (g : Bool) :
    hostEvents g (.tick now) s =
      cmdSlowEvents g clearByte ++ rowEvents g s.rowOffsets.o0 s.row0 ++ rowEvents g s.rowOffsets.o1 s.row1 := by
  rw [hostEvents, if_pos ha, if_pos hdue]

/-- Settles O43: an expiry clears and then renders both rows, whose windows fill the sixteen visible cells. -/
theorem expiryRestoresTheWindows : Obligations.ExpiryRestoresTheWindows := by
  intro s t now h hinv hoe hsync hs ha hdue he ht
  obtain ⟨hran, hpanel⟩ := exec_ran he ht rfl nofun
  have hlen0 := window_length hinv.row0
  have hlen1 := window_length hinv.row1
  rw [hoe, hostEvents_tick_expired ha hdue] at hpanel
  obtain ⟨hsync', hup, -, -, hrow0, hrow1⟩ := clear_rows_display hinv h.2.2 hsync hs hlen0.le hlen1.le hpanel
  rw [hlen0, Nat.sub_self, List.replicate_zero, List.append_nil] at hrow0
  rw [hlen1, Nat.sub_self, List.replicate_zero, List.append_nil] at hrow1
  refine ⟨?_, hrow0.trans ?_, hrow1.trans ?_, hsync', hup⟩ <;> rw [hran, hostFields_tick_expired ha hdue] <;> rfl

/-! ### SHOW_OVERLAY -/

/-- Settles O37: the draw is the call's reading or `clk.last`, and the deadline is checked before anything is written. -/
theorem showOverlayWritesTheOverlay : Obligations.ShowOverlayWritesTheOverlay := by
  rintro s t0 t1 dur now hnow
  obtain rfl : now = s.readClock := hnow
  have hw : Text.wf t0 = true → Text.wf t1 = true → dur < 2 ^ 32 → (Instr.showOverlay t0 t1 dur).wf = true := fun h0 h1 hd => by
    simpa [Instr.wf, h0, h1] using hd
  refine ⟨fun h h0 h1 hd hrange => ?_, fun h h0 h1 hd hrange => ?_, fun h0 h1 hd => refusesUninit rfl nofun rfl (hw h0 h1 hd),
    fun h hbad => ?_⟩
  · obtain ⟨t, ht, hemits⟩ := exec_host_emits (i := .showOverlay t0 t1 dur) rfl nofun (hw h0 h1 hd) hrange h
    refine ⟨t, ht, ?_⟩
    simp only [hostEvents, State.overlayEvents, State.overlayRowEvents, ddaByte_toNat, ← List.append_assoc] at hemits
    exact hemits
  · exact exec_timeRefusal (i := .showOverlay t0 t1 dur) rfl nofun (hw h0 h1 hd) h (if_pos hrange)
  · exact exec_operandRefusal rfl nofun h (firstBad_append_of_some (firstBad_text_text hbad) [checkU32 dur])

/-! ### TICK with nothing due -/

theorem not_eligible {rb : RowBuffer} {now : Nat} (h : rb.mode = .none ∨ rb.content.length ≤ 16 ∨ now < rb.deadline) :
    rb.eligible now = false := by
  rw [Bool.eq_false_iff, ne_eq, eligible_iff]
  rintro ⟨hmode, hlong, hdue⟩
  obtain h | h | h := h
  · exact hmode h
  · exact hlong.not_ge h
  · exact hdue.not_gt h

/-- With no overlay active and no row due, a tick's rows and events are none (42_scheduler.md R172). -/
theorem tick_quiet {s : State} {now : Nat} (ha : s.ov.active = false) (h0 : s.row0.eligible now = false) (h1 : s.row1.eligible now = false)
    (g : Bool) : hostFields (.tick now) s = s.setClk now ∧ hostEvents g (.tick now) s = [] := by
  have hnot : ¬ s.ov.active = true := by simp [ha]
  constructor
  · rw [hostFields, if_neg hnot, RowBuffer.tick, RowBuffer.tick, h0, h1]
    rfl
  · rw [hostEvents, if_neg hnot, h0, h1]
    rfl

theorem tick_before_expiry {s : State} {now : Nat} (ha : s.ov.active = true) (hearly : now < s.ov.expiry) (g : Bool) :
    hostFields (.tick now) s = s.setClk now ∧ hostEvents g (.tick now) s = [] := by
  constructor
  · rw [hostFields, if_pos ha, if_neg hearly.not_ge]
  · rw [hostEvents, if_pos ha, if_neg hearly.not_ge]

/-- Settles O40: the tick's fields are the clock mark alone, and while an overlay is active no row is among them. -/
theorem tickWithNothingDue : Obligations.TickWithNothingDue := by
  intro s now h hrange hback
  rw [exec_tick h hrange hback]
  refine ⟨fun hov hrows => ?_, fun ha => ⟨_, rfl, ?_⟩⟩
  · have hquiet : hostFields (.tick now) s = s.setClk now ∧ hostEvents s.env.oe (.tick now) s = [] := by
      cases ha : s.ov.active with
      | true => exact tick_before_expiry ha (hov ha) _
      | false => exact tick_quiet ha (not_eligible (hrows ha .row0)) (not_eligible (hrows ha .row1)) _
    rw [hquiet.1, hquiet.2, emit_nil]
    rfl
  · rw [hostFields, if_pos ha]
    split <;> exact ⟨rfl, rfl⟩

/-! ### STEP_ROW -/

theorem step_of_loop {rb : RowBuffer} (hmode : rb.mode = .loop) (hlong : 16 < rb.content.length) : rb.step = rb.loopStep := by
  rw [RowBuffer.step, if_pos hlong, hmode]

theorem step_of_still {rb : RowBuffer} (h : rb.mode = .none ∨ rb.content.length ≤ 16) : rb.step = rb := by
  rw [RowBuffer.step]
  split
  next hlong => rw [h.resolve_right hlong.not_ge]
  next => rfl

theorem setRow_row (s : State) (r : RowIx) : s.setRow r (s.row r) = s := by cases r <;> rfl

/-- Settles O45: the primitive's field is the row's step. -/
theorem stepRowLoops : Obligations.StepRowLoops := by
  intro s op k g r h
  rw [exec_stepRow r h]
  refine ⟨fun hmode hlong => ?_, fun hstill => ?_⟩
  · rw [step_of_loop hmode hlong]
    rfl
  · rw [step_of_still hstill, setRow_row]

/-- A step writes the offset and the direction alone (42_scheduler.md R173, R174). -/
theorem step_frame (rb : RowBuffer) : ∃ o d, rb.step = { rb with offset := o, dir := d } := by
  unfold RowBuffer.step
  split
  · split <;> exact ⟨_, _, rfl⟩
  · exact ⟨_, _, rfl⟩

/-! ### Repeated steps (42_scheduler.md R179) -/

/-- The row is `k` steps into its walk up to `m` and back (42_scheduler.md R179 (1)). -/
structure RowBuffer.Bounces (m k : Nat) (rb : RowBuffer) : Prop where
  mode : rb.mode = .bounce
  long : 16 < rb.content.length
  max : rb.maxOffset = m
  offset : rb.offset = if k < m then k else 2 * m - k
  dir : rb.dir = if k < m then .fwd else .bwd

/-- Past an end the row has already turned, so that the guards of a step keep its direction. -/
theorem bounceDir_of_bounces {m k : Nat} {rb : RowBuffer} (h : rb.Bounces m k) (hk : k < 2 * m) : rb.bounceDir = rb.dir := by
  have hmax : 0 < rb.maxOffset := by rw [h.max]; omega
  have hoffset := h.offset
  have hdir := h.dir
  by_cases hup : k < m
  · rw [if_pos hup] at hoffset hdir
    by_cases hstart : k = 0
    · rw [bounceDir_at_start (hoffset.trans hstart) hmax, hdir]
    · exact bounceDir_between (by omega) (by rw [h.max]; omega)
  · rw [if_neg hup] at hoffset hdir
    by_cases hend : k = m
    · rw [bounceDir_at_end (by rw [h.max]; omega) hmax, hdir]
    · exact bounceDir_between (by omega) (by rw [h.max]; omega)

theorem bounceStep_dir (rb : RowBuffer) :
    rb.bounceStep.dir =
      if rb.bounceOffset = rb.maxOffset then .bwd else if rb.bounceOffset = 0 then .fwd else rb.bounceDir := rfl

theorem bounces_step {m k : Nat} {rb : RowBuffer} (h : rb.Bounces m k) (hk : k < 2 * m) : rb.step.Bounces m ((k + 1) % (2 * m)) := by
  have hturn := bounceDir_of_bounces h hk
  have hoffset := h.offset
  have hdir := h.dir
  rw [step_of_bounce h.mode h.long]
  by_cases hup : k < m
  · rw [if_pos hup] at hoffset hdir
    have hnext : rb.bounceOffset = k + 1 := by rw [bounceOffset_of_fwd (hturn.trans hdir), hoffset]
    rw [Nat.mod_eq_of_lt (by omega)]
    refine ⟨h.mode, h.long, h.max, hnext.trans ?_, ?_⟩
    · split <;> omega
    · rw [bounceStep_dir, hnext, h.max, hturn, hdir]
      by_cases hend : k + 1 = m
      · rw [if_pos hend, if_neg (by omega)]
      · rw [if_neg hend, if_neg (by omega), if_pos (by omega)]
  · rw [if_neg hup] at hoffset hdir
    have hnext : rb.bounceOffset = 2 * m - k - 1 := by rw [bounceOffset_of_bwd (hturn.trans hdir), hoffset]
    have hdirNext : rb.bounceStep.dir = if 2 * m - k - 1 = 0 then .fwd else .bwd := by
      rw [bounceStep_dir, hnext, h.max, hturn, hdir, if_neg (by omega)]
    by_cases hend : k + 1 = 2 * m
    · rw [hend, Nat.mod_self]
      refine ⟨h.mode, h.long, h.max, hnext.trans ?_, ?_⟩
      · rw [if_pos (by omega)]
        omega
      · rw [hdirNext, if_pos (by omega), if_pos (by omega)]
    · rw [Nat.mod_eq_of_lt (by omega)]
      refine ⟨h.mode, h.long, h.max, hnext.trans ?_, ?_⟩
      · rw [if_neg (by omega)]
        omega
      · rw [hdirNext, if_neg (by omega), if_neg (by omega)]

/-- `k` steps into a walk of period `p`, as long as each step goes on from where the last one left. -/
theorem walk_iterate {P : Nat → RowBuffer → Prop} {p : Nat} (hp : 0 < p) (hstep : ∀ k rb, P k rb → k < p → P ((k + 1) % p) rb.step)
    {rb : RowBuffer} (h : P 0 rb) (n : Nat) : P (n % p) (RowBuffer.step^[n] rb) := by
  induction n with
  | zero => rwa [Nat.zero_mod]
  | succ n ih =>
    rw [Function.iterate_succ_apply', ← Nat.mod_add_mod]
    exact hstep _ _ ih (Nat.mod_lt n hp)

/-- The row is at offset `k` of its way to `m`, from where LOOP goes back to 0 (42_scheduler.md R179 (2)). -/
structure RowBuffer.Loops (m k : Nat) (rb : RowBuffer) : Prop where
  mode : rb.mode = .loop
  long : 16 < rb.content.length
  max : rb.maxOffset = m
  offset : rb.offset = k

theorem loops_step {m k : Nat} {rb : RowBuffer} (h : rb.Loops m k) (hk : k < m + 1) : rb.step.Loops m ((k + 1) % (m + 1)) := by
  rw [step_of_loop h.mode h.long]
  refine ⟨h.mode, h.long, h.max, ?_⟩
  rw [RowBuffer.loopStep, h.max, h.offset]
  split
  next hend =>
    obtain rfl : k = m := by omega
    rw [Nat.mod_self]
  next hshort => rw [Nat.mod_eq_of_lt (by omega)]

/-- Settles O46: under BOUNCE the walk has period `2 m`, under LOOP `m + 1`. -/
theorem repeatedStepsBounceAndLoop : Obligations.RepeatedStepsBounceAndLoop := by
  rintro rb n m hlong rfl hoffset hdir
  have hmax : 0 < rb.content.length - 16 := by omega
  refine ⟨fun hmode => ?_, fun hmode => ?_⟩
  · have hwalk := walk_iterate (P := RowBuffer.Bounces (rb.content.length - 16)) (by omega) (fun _ _ => bounces_step)
      ⟨hmode, hlong, rfl, by rw [hoffset, if_pos hmax], by rw [hdir, if_pos hmax]⟩ n
    rw [hwalk.offset]
    split <;> split <;> omega
  · exact (walk_iterate (P := RowBuffer.Loops (rb.content.length - 16)) (Nat.succ_pos _) (fun _ _ => loops_step)
      ⟨hmode, hlong, rfl, hoffset⟩ n).offset

end Sys2Proof.Machine
end

section
/-! PROOFS. Who writes the Scheduler's fields (spec 10_state.md R33, R34, R36, 42_scheduler.md R166), and the grammar refusals
(60_exceptions.md R244): the first from the fields an operation leaves, the second from its operand checks. -/

namespace Sys2Proof.Machine

/-! ### The rows' deadlines and modes -/

theorem setRow_row_of_ne {s : State} {r r' : RowIx} {rb : RowBuffer} (h : r' ≠ r) : (s.setRow r rb).row r' = s.row r' := by
  cases r
  case row0 =>
    cases r'
    · exact absurd rfl h
    · exact State.setRow_row0_row1 s rb
  case row1 =>
    cases r'
    · exact State.setRow_row1_row0 s rb
    · exact absurd rfl h

/-- Writing one row with the same value of a field leaves that field of both rows. -/
theorem setRow_keeps {α : Type} (f : RowBuffer → α) {s : State} {r : RowIx} {rb : RowBuffer} (h : f rb = f (s.row r)) (r' : RowIx) :
    f ((s.setRow r rb).row r') = f (s.row r') := by
  by_cases hr : r' = r
  · rw [hr, State.setRow_row_same, h]
  · rw [setRow_row_of_ne hr]

theorem setRow_setRow_keeps {α : Type} (f : RowBuffer → α) {s : State} {rb0 rb1 : RowBuffer} (h0 : f rb0 = f s.row0) (h1 : f rb1 = f s.row1)
    (r : RowIx) : f (((s.setRow .row0 rb0).setRow .row1 rb1).row r) = f (s.row r) :=
  (setRow_keeps f (s := s.setRow .row0 rb0) h1 r).trans (setRow_keeps f h0 r)

/-- 10_state.md R33: of the host's operations only TICK writes a deadline. -/
theorem hostFields_deadline {i : Instr} (s : State) (hn : ∀ now, i ≠ .tick now) (r : RowIx) :
    ((hostFields i s).row r).deadline = (s.row r).deadline := by
  cases i
  case tick now => exact absurd rfl (hn now)
  case setBackground row text => exact setRow_keeps RowBuffer.deadline (s := s) (rb := (s.row (clampRow row)).setText text) rfl r
  case setBackgroundRows upper lower =>
    exact setRow_setRow_keeps RowBuffer.deadline (s := s) (rb0 := s.row0.setText upper) (rb1 := s.row1.setText lower) rfl rfl r
  case setAnimationMode row mode =>
    exact setRow_keeps RowBuffer.deadline (s := s) (rb := { s.row (clampRow row) with mode := modeOf mode }) rfl r
  case print text ms =>
    rw [hostFields]
    split
    · exact setRow_keeps RowBuffer.deadline (s := s) (r := .row0) (rb := s.row0.setText text) rfl r
    · rfl
  all_goals rfl

theorem tick_mode (now : Nat) (rb : RowBuffer) : (rb.tick now).mode = rb.mode := by
  obtain ⟨o, d, hstep⟩ := step_frame rb
  unfold RowBuffer.tick
  split
  · rw [hstep]
  · rfl

/-- 42_scheduler.md R166: of the host's operations only SET_ANIMATION_MODE writes a mode. -/
theorem hostFields_mode {i : Instr} (s : State) (hn : ∀ row mode, i ≠ .setAnimationMode row mode) (r : RowIx) :
    ((hostFields i s).row r).mode = (s.row r).mode := by
  cases i
  case setAnimationMode row mode => exact absurd rfl (hn row mode)
  case setBackground row text => exact setRow_keeps RowBuffer.mode (s := s) (rb := (s.row (clampRow row)).setText text) rfl r
  case setBackgroundRows upper lower =>
    exact setRow_setRow_keeps RowBuffer.mode (s := s) (rb0 := s.row0.setText upper) (rb1 := s.row1.setText lower) rfl rfl r
  case print text ms =>
    rw [hostFields]
    split
    · exact setRow_keeps RowBuffer.mode (s := s) (r := .row0) (rb := s.row0.setText text) rfl r
    · rfl
  case tick now =>
    rw [hostFields]
    split
    · split <;> rfl
    · exact setRow_setRow_keeps RowBuffer.mode (s := s.setClk now) (tick_mode now _) (tick_mode now _) r
  all_goals rfl

/-- A step of a row writes neither. -/
theorem seqFields_deadline_mode (i : Instr) (s : State) (r : RowIx) :
    ((seqFields i s).row r).deadline = (s.row r).deadline ∧ ((seqFields i s).row r).mode = (s.row r).mode := by
  cases i
  case stepRow r' =>
    obtain ⟨o, d, hstep⟩ := step_frame (s.row r')
    exact ⟨setRow_keeps RowBuffer.deadline (by rw [hstep]) r, setRow_keeps RowBuffer.mode (by rw [hstep]) r⟩
  all_goals exact ⟨rfl, rfl⟩

/-! ### The overlay and the clock mark -/

/-- The operations that show an overlay (42_scheduler.md R167, R168). -/
abbrev StartsOverlay (i : Instr) : Prop := (∃ t0 t1 dur, i = .showOverlay t0 t1 dur) ∨ ∃ text ms, i = .print text ms ∧ ms ≠ 0

/-- 10_state.md R34, R36: an operation starts an overlay at the clock value it draws, or it is a tick, or it leaves both fields. -/
theorem hostFields_ov_clk (i : Instr) (s : State) :
    (StartsOverlay i ∧ (hostFields i s).ov.active = true ∧ (hostFields i s).clkLast = s.readClock)
      ∨ (∃ now, i = .tick now ∧ (hostFields i s).clkLast = now ∧ ((hostFields i s).ov.active = true → s.ov.active = true))
      ∨ ((hostFields i s).ov = s.ov ∧ (hostFields i s).clkLast = s.clkLast) := by
  cases i
  case showOverlay t0 t1 dur => exact .inl ⟨.inl ⟨t0, t1, dur, rfl⟩, rfl, rfl⟩
  case print text ms =>
    rw [hostFields]
    split
    next => exact .inr (.inr ⟨rfl, rfl⟩)
    next hms => exact .inl ⟨.inr ⟨text, ms, rfl, hms⟩, rfl, rfl⟩
  case tick now =>
    refine .inr (.inl ⟨now, rfl, ?_⟩)
    rw [hostFields]
    split
    next ha => split <;> exact ⟨rfl, fun _ => ha⟩
    next => exact ⟨rfl, id⟩
  all_goals exact .inr (.inr (by simp [hostFields, State.initFields]))

/-- Which operations write the overlay and the clock mark, on the way from `s` to `t` (10_state.md R34, R36). -/
abbrev OvClkWriters (i : Instr) (s t : State) : Prop :=
  (s.ov.active = false → t.ov.active = true → StartsOverlay i)
    ∧ (s.ov.active = true → t.ov.active = false → ∃ now, i = .tick now)
    ∧ s.clkLast ≤ t.clkLast
    ∧ (t.clkLast ≠ s.clkLast → (∃ now, i = .tick now ∧ t.clkLast = now) ∨ StartsOverlay i)

theorem ovClkWriters_kept {i : Instr} {s t : State} (hov : t.ov = s.ov) (hclk : t.clkLast = s.clkLast) : OvClkWriters i s t := by
  unfold OvClkWriters
  rw [hov, hclk]
  exact ⟨fun h h' => absurd (h.symm.trans h') Bool.false_ne_true, fun h h' => absurd (h'.symm.trans h) Bool.false_ne_true,
    le_refl _, absurd rfl⟩

theorem ovClkWriters_hostFields {i : Instr} {s : State} (htimes : timesPass i s) : OvClkWriters i s (hostFields i s) := by
  obtain ⟨hstart, ha, hclk⟩ | ⟨now, rfl, hclk, ha⟩ | ⟨hov, hclk⟩ := hostFields_ov_clk i s
  · refine ⟨fun _ _ => hstart, fun _ h => ?_, ?_, fun _ => .inr hstart⟩
    · rw [ha] at h
      cases h
    · rw [hclk]
      exact Nat.le_max_left _ _
  · refine ⟨fun h h' => ?_, fun _ _ => ⟨now, rfl⟩, ?_, fun _ => .inl ⟨now, rfl, hclk⟩⟩
    · rw [ha h'] at h
      cases h
    · rw [hclk]
      exact htimes.1
  · exact ovClkWriters_kept hov hclk

/-- Settles O47: a host operation that ran writes what its fields say, and nothing else writes the Scheduler's fields but the offset of a row. -/
theorem schedulerFieldsHaveTheirWriters : Obligations.SchedulerFieldsHaveTheirWriters := by
  intro i s t h
  cases exec_did h with
  | called _ _ _ _ htimes ht =>
    subst ht
    refine ⟨?_, ?_, ovClkWriters_hostFields htimes⟩
    · by_cases hn : ∃ now, i = .tick now
      · exact .inr hn
      · exact .inl fun r => by rw [State.emit_row, hostFields_deadline s (not_exists.mp hn)]
    · by_cases hn : ∃ row mode, i = .setAnimationMode row mode
      · exact .inr hn
      · exact .inl fun r => by rw [State.emit_row, hostFields_mode s fun row mode hi => hn ⟨row, mode, hi⟩]
  | marked c op ht =>
    subst ht
    exact ⟨.inl fun r => by cases r <;> rfl, .inl fun r => by cases r <;> rfl, ovClkWriters_kept rfl rfl⟩
  | issued _ op k g _ ht =>
    have hrow (r : RowIx) : t.row r = (seqFields i s).row r := by
      rw [ht, State.emit_row]
      cases r <;> rfl
    obtain ⟨r0, r1, hrows⟩ := seqFields_rows i s
    refine ⟨.inl fun r => ?_, .inl fun r => ?_, ovClkWriters_kept ?_ ?_⟩
    · rw [hrow, (seqFields_deadline_mode i s r).1]
    · rw [hrow, (seqFields_deadline_mode i s r).2]
    · rw [ht, hrows, State.emit_ov]
    · rw [ht, hrows, State.emit_clkLast]
  | fed _ _ evs ht =>
    subst ht
    exact ⟨.inl fun r => by rw [State.feed_row], .inl fun r => by rw [State.feed_row], ovClkWriters_kept rfl rfl⟩

/-! ### The grammar refusals (60_exceptions.md R244) -/

/-- A host operation with an operand outside its kind is refused with that operand's code and its own op code. -/
theorem refuses_operand {i : Instr} {s : State} {c : RefCode} {op : Nat} (h : s.callable) (hp : i.port = .host) (hn : i ≠ .opInitialize)
    (hop : recordOp (encode i) = some op) (hc : operandRefusal i = some c) : exec i s = .next (s.mark c (some op)) :=
  hop ▸ exec_operandRefusal hp hn h hc

theorem firstBad_u8_bitmap {slot : Nat} {bitmap : List Nat} (h : 256 ≤ slot ∨ ∃ b ∈ bitmap, 256 ≤ b) :
    firstBad [checkU8 slot, checkBitmap bitmap] = some .argRange := by
  obtain hslot | hslot := Nat.lt_or_ge slot 256
  · rw [checkU8_none.mpr hslot, firstBad_none, checkBitmap_argRange (h.resolve_left hslot.not_ge), firstBad_some]
  · exact firstBad_append_of_some (firstBad_below hslot) [checkBitmap bitmap]

/-- An operand outside its kind, the texts before it without 0x00. -/
theorem refuses_argRange {i : Instr} {s : State} {op : Nat} (h : s.callable) (hop : recordOp (encode i) = some op)
    (hi : (∃ c r, i = .setCursor c r ∧ ¬ (c < 256 ∧ r < 256)) ∨ (∃ v, i = .setCursorVisible v ∧ 2 ≤ v)
      ∨ (∃ v, i = .setScrollDirection v ∧ 2 ≤ v) ∨ (∃ v, i = .setAutoscroll v ∧ 2 ≤ v) ∨ (∃ b, i = .writeGlyph b ∧ 256 ≤ b)
      ∨ (∃ k m, i = .defineGlyph k m ∧ (256 ≤ k ∨ ∃ b ∈ m, 256 ≤ b))
      ∨ (∃ t0 t1 d, i = .showOverlay t0 t1 d ∧ Text.wf t0 = true ∧ Text.wf t1 = true ∧ 2 ^ 32 ≤ d)
      ∨ (∃ t d, i = .print t d ∧ Text.wf t = true ∧ 2 ^ 32 ≤ d) ∨ (∃ r t, i = .setBackground r t ∧ 256 ≤ r)
      ∨ (∃ r m, i = .setAnimationMode r m ∧ ¬ (r < 256 ∧ m < 3)) ∨ (∃ now, i = .tick now ∧ 2 ^ 32 ≤ now)) :
    exec i s = .next (s.mark .argRange (some op)) := by
  obtain ⟨c, r, rfl, hb⟩ | ⟨v, rfl, hb⟩ | ⟨v, rfl, hb⟩ | ⟨v, rfl, hb⟩ | ⟨b, rfl, hb⟩ | ⟨k, m, rfl, hb⟩ | ⟨t0, t1, d, rfl, h0, h1, hb⟩
    | ⟨t, d, rfl, ht, hb⟩ | ⟨r, t, rfl, hb⟩ | ⟨r, m, rfl, hb⟩ | ⟨now, rfl, hb⟩ := hi
  all_goals refine refuses_operand h rfl Instr.noConfusion hop ?_
  · exact firstBad_u8_u8 (by omega)
  · exact firstBad_below hb
  · exact firstBad_below hb
  · exact firstBad_below hb
  · exact firstBad_below hb
  · exact firstBad_u8_bitmap hb
  · rw [operandRefusal, checkText_none.mpr h0, checkText_none.mpr h1, firstBad_none, firstBad_none]
    exact firstBad_below hb
  · rw [operandRefusal, checkText_none.mpr ht, firstBad_none]
    exact firstBad_below hb
  · exact firstBad_append_of_some (firstBad_below hb) [checkText t]
  · exact firstBad_below_below (by omega)
  · exact firstBad_below hb

/-- A text with a 0x00, the row before it a byte. -/
theorem refuses_nulText {i : Instr} {s : State} {op : Nat} (h : s.callable) (hop : recordOp (encode i) = some op)
    (hi : (∃ t0 t1 d, i = .showOverlay t0 t1 d ∧ ¬ (Text.wf t0 = true ∧ Text.wf t1 = true))
      ∨ (∃ t d, i = .print t d ∧ Text.wf t = false) ∨ (∃ r t, i = .setBackground r t ∧ r < 256 ∧ Text.wf t = false)
      ∨ (∃ u l, i = .setBackgroundRows u l ∧ ¬ (Text.wf u = true ∧ Text.wf l = true))) :
    exec i s = .next (s.mark .nulText (some op)) := by
  obtain ⟨t0, t1, d, rfl, ht⟩ | ⟨t, d, rfl, ht⟩ | ⟨r, t, rfl, hr, ht⟩ | ⟨u, l, rfl, ht⟩ := hi
  all_goals refine refuses_operand h rfl Instr.noConfusion hop ?_
  · exact firstBad_append_of_some (firstBad_text_text ht) [checkU32 d]
  · rw [operandRefusal, checkText_nulText ht, firstBad_some]
  · rw [operandRefusal, checkU8_none.mpr hr, checkText_nulText ht, firstBad_none, firstBad_some]
  · exact firstBad_text_text ht

/-! ### An internal primitive with a bad operand byte (log entry 19) -/

theorem asBit_none {b : Byte} (h : 2 ≤ b.toNat) : asBit b = none := by
  cases hb : asBit b with
  | none => rfl
  | some x =>
    rw [asBit_eq_some_iff] at hb
    subst hb
    cases x <;> contradiction

theorem asNibble_none {b : Byte} (h : 16 ≤ b.toNat) : asNibble b = none := if_neg h.not_gt

theorem asRow_none {b : Byte} (h : 2 ≤ b.toNat) : asRow b = none := by
  cases hb : asRow b with
  | none => rfl
  | some x =>
    rw [asRow_eq_some_iff] at hb
    subst hb
    cases x <;> contradiction

theorem decode_transmit_badOperand {rs e n : Byte} (h : ¬ (rs.toNat < 2 ∧ e.toNat < 2 ∧ n.toNat < 16)) :
    decode .seq [0x18, rs, e, n] = .error (.operandKind 0x18) := by
  rw [decode, decodeSeq.eq_def]
  obtain hb | hb | hb : 2 ≤ rs.toNat ∨ 2 ≤ e.toNat ∨ 16 ≤ n.toNat := by omega
  · simp [asBit_none hb]
  · simp [asBit_none hb]
  · simp [asNibble_none hb]

theorem decode_nibble_badOperand {rs n : Byte} (h : ¬ (rs.toNat < 2 ∧ n.toNat < 16)) :
    decode .seq [0x19, rs, n] = .error (.operandKind 0x19) := by
  rw [decode, decodeSeq.eq_def]
  obtain hb | hb : 2 ≤ rs.toNat ∨ 16 ≤ n.toNat := by omega
  · simp [asBit_none hb]
  · simp [asNibble_none hb]

theorem decode_send_badOperand {rs : Byte} (v : Byte) (h : 2 ≤ rs.toNat) : decode .seq [0x1A, rs, v] = .error (.operandKind 0x1A) := by
  rw [decode, decodeSeq.eq_def]
  simp [asBit_none h]

theorem decode_renderRow_badOperand {r : Byte} (h : 2 ≤ r.toNat) : decode .seq [0x1B, r] = .error (.operandKind 0x1B) := by
  rw [decode, decodeSeq.eq_def]
  simp [asRow_none h]

theorem decode_stepRow_badOperand {r : Byte} (h : 2 ≤ r.toNat) : decode .seq [0x1C, r] = .error (.operandKind 0x1C) := by
  rw [decode, decodeSeq.eq_def]
  simp [asRow_none h]

/-- Inside an operation a primitive's record with an operand byte outside its kind is refused for that. -/
theorem step_seqRecord_badOperand {s : State} {op k n : Nat} {g : Bool} {env : Env} {bytes : List Byte} {rest : List Input}
    (h : s.inside op k g) (hin : s.inbox = .record .seq env bytes :: rest) (hd : decode .seq bytes = .error (.operandKind n)) :
    step s = .next ((s.taken env rest).mark .argRange (recordOp bytes)) := by
  obtain ⟨hr, hq⟩ := h
  apply step_of_fetch_ends
  have hr' : ¬ (s.taken env rest).refused = true := by simpa [State.taken] using hr
  have hq' : ¬ (s.taken env rest).seq = .idle := by simp [State.taken, hq]
  rw [fetch_record hin, fetchRecord.eq_def, if_neg hr']
  change fetchSeq bytes _ = _
  rw [fetchSeq, hd]
  simp only [if_neg hq', recordCode]

/-- Settles O49: the op code ends the record's decoding; the operands are checked from left to right. -/
theorem grammarRefusals : Obligations.GrammarRefusals := by
  refine ⟨fun s h => ⟨?badOp, ?issued, ?argRange, ?bitmapLen, ?nulText⟩, ?seqOperand⟩
  case badOp => exact fun env op bytes rest hin hop => step_hostRecord_badOp h hin hop
  case issued =>
    intro i hp
    rw [exec_seq hp h.1, h.2]
  case argRange => exact fun i op hop => refuses_argRange h hop
  case bitmapLen =>
    intro k m hk hb hl
    refine refuses_operand h rfl Instr.noConfusion rfl ?_
    rw [operandRefusal, checkU8_none.mpr hk, firstBad_none, checkBitmap_length hb hl, firstBad_some]
  case nulText => exact fun i op hop => refuses_nulText h hop
  case seqOperand =>
    intro s op k g env bytes rest h hin hbytes
    obtain ⟨rs, e, n, rfl, hb⟩ | ⟨rs, n, rfl, hb⟩ | ⟨rs, v, rfl, hb⟩ | ⟨r, rfl | rfl, hb⟩ := hbytes
    · exact step_seqRecord_badOperand h hin (decode_transmit_badOperand hb)
    · exact step_seqRecord_badOperand h hin (decode_nibble_badOperand hb)
    · exact step_seqRecord_badOperand h hin (decode_send_badOperand v hb)
    · exact step_seqRecord_badOperand h hin (decode_renderRow_badOperand hb)
    · exact step_seqRecord_badOperand h hin (decode_stepRow_badOperand hb)

end Sys2Proof.Machine
end
